-- ==== Sys2Proof/Word.lean ====
section
/-! DEFINITION. The word types of the block (rule R10): bytes, byte strings and the name of a queue pair. -/

namespace Sys2Proof

/-- An 8-bit quantity: a register, a buffer byte, a byte on the wire (rules R10, R20). -/
abbrev Byte := BitVec 8

/-- A byte string; element 0 is the first byte on the wire (rule R11). -/
abbrev Bytes := List Byte

/-- The two NVMe queue pairs: `admin` is `q = 0`, `io` is `q = 1` (rule R42). -/
inductive QueueId where
  | admin
  | io
deriving DecidableEq, Repr, Inhabited

end Sys2Proof
end

