-- ==== Sys2Proof/Syntax.lean ====
section
/-! DEFINITION. The instructions: one constructor per row of spec/opcode_table.json (rule R144, decision D61). -/

namespace Sys2Proof

/-- The commands the block accepts (CDBs and control requests) and the NVMe commands it issues. -/
inductive Instr where
  -- CDB rows of the nine standard opcodes (rules R116 to R123)
  | testUnitReady
  | requestSense (alloc : BitVec 8)
  | inquiry (evpd : Bool) (page : BitVec 8) (alloc : BitVec 16)
  | modeSense6 (pc : BitVec 2) (page : BitVec 6) (alloc : BitVec 8)
  | readCapacity10
  | read10 (lba : BitVec 32) (blocks : BitVec 16)
  | write10 (lba : BitVec 32) (blocks : BitVec 16)
  | synchronizeCache
  | reportLuns (alloc : BitVec 32)
  -- vendor CDB rows (rules R125 to R130)
  | vendorE0_50 (blockno : BitVec 8)
  | vendorE1_50 (blockno : BitVec 8)
  | vendorE2 (length : BitVec 32)
  | vendorE3_50 (length : BitVec 32)
  | vendorE3_D0 (length : BitVec 32)
  | vendorE4 (size : BitVec 8) (addr : BitVec 24)
  | vendorE5 (value : BitVec 8) (addr : BitVec 24)
  | vendorE6_02 (rest : BitVec 112)
  | vendorE6_06 (rest : BitVec 112)
  | vendorE8_00
  | vendorE8_01
  | vendorE8_51
  -- rows that catch a vendor opcode with any other sub-opcode, and any other opcode
  | vendorE0BadSub (sub : BitVec 8)
  | vendorE1BadSub (sub : BitVec 8)
  | vendorE3BadSub (sub : BitVec 8)
  | vendorE6BadSub (sub : BitVec 8)
  | vendorE8BadSub (sub : BitVec 8)
  | illegalOpcode (op : BitVec 8)
  -- control requests (rules R131, R132)
  | getStatusDevice (wValue wIndex wLength : BitVec 16)
  | getStatusInterface (wValue wIndex wLength : BitVec 16)
  | getStatusEndpoint (wValue wIndex wLength : BitVec 16)
  | clearFeature (wValue wIndex wLength : BitVec 16)
  | setAddress (wValue wIndex wLength : BitVec 16)
  | getDescriptor (type index : BitVec 8) (wIndex wLength : BitVec 16)
  | setConfiguration (wValue wIndex wLength : BitVec 16)
  | bulkOnlyReset (wValue wIndex wLength : BitVec 16)
  | unhandledRequest (bmRequestType bRequest : BitVec 8) (wValue wIndex wLength : BitVec 16)
  -- NVMe commands the block issues (rules R139, R140)
  | identify (cid : BitVec 16) (nsid : BitVec 32) (prp1 : BitVec 64) (cdw10 cdw11 : BitVec 32)
  | createIoCq (cid : BitVec 16) (prp1 : BitVec 64) (cdw10 cdw11 : BitVec 32)
  | createIoSq (cid : BitVec 16) (prp1 : BitVec 64) (cdw10 cdw11 : BitVec 32)
  | getLogPage (cid : BitVec 16) (nsid : BitVec 32) (prp1 : BitVec 64) (cdw10 cdw11 : BitVec 32)
  | nvmeFlush (cid : BitVec 16) (nsid : BitVec 32)
  | nvmeWrite (cid : BitVec 16) (nsid : BitVec 32) (prp1 slba : BitVec 64) (nlb : BitVec 16)
  | nvmeRead (cid : BitVec 16) (nsid : BitVec 32) (prp1 slba : BitVec 64) (nlb : BitVec 16)
deriving DecidableEq, Repr

end Sys2Proof
end

