-- ==== Sys2Proof/WellFormed.lean ====
section
/-! DEFINITION. Which instructions are well formed: a catch-all row holds only encodings that no row with a larger mask matches (rule R144). -/

namespace Sys2Proof

/-- The opcodes that have a row of their own in rule R144's table. -/
def listedOpcodes : List Byte :=
  [0x00, 0x03, 0x12, 0x1A, 0x25, 0x28, 0x2A, 0x35, 0xA0,
   0xE0, 0xE1, 0xE2, 0xE3, 0xE4, 0xE5, 0xE6, 0xE8]

/-- The pairs `(bmRequestType, bRequest)` that rule R132 lists. -/
def listedRequests : List (Byte × Byte) :=
  [(0x80, 0x00), (0x81, 0x00), (0x82, 0x00), (0x02, 0x01), (0x00, 0x05), (0x80, 0x06), (0x00, 0x09), (0x21, 0xFF)]

/-- The well-formedness check (rules R132, R144, and R343 for the sub-opcodes). Every other field may hold every value its encoding admits. -/
def Instr.wf : Instr → Bool
  | .vendorE0BadSub sub => sub != 0x50
  | .vendorE1BadSub sub => sub != 0x50
  | .vendorE3BadSub sub => sub != 0x50 && sub != 0xD0
  | .vendorE6BadSub sub => sub != 0x02 && sub != 0x06
  | .vendorE8BadSub sub => sub != 0x00 && sub != 0x01 && sub != 0x51
  | .illegalOpcode op => !listedOpcodes.contains op
  | .unhandledRequest t r _ _ _ => !listedRequests.contains (t, r)
  | .testUnitReady | .requestSense _ | .inquiry _ _ _ | .modeSense6 _ _ _ | .readCapacity10
  | .read10 _ _ | .write10 _ _ | .synchronizeCache | .reportLuns _
  | .vendorE0_50 _ | .vendorE1_50 _ | .vendorE2 _ | .vendorE3_50 _ | .vendorE3_D0 _
  | .vendorE4 _ _ | .vendorE5 _ _ | .vendorE6_02 _ | .vendorE6_06 _
  | .vendorE8_00 | .vendorE8_01 | .vendorE8_51
  | .getStatusDevice _ _ _ | .getStatusInterface _ _ _ | .getStatusEndpoint _ _ _
  | .clearFeature _ _ _ | .setAddress _ _ _ | .getDescriptor _ _ _ _
  | .setConfiguration _ _ _ | .bulkOnlyReset _ _ _
  | .identify _ _ _ _ _ | .createIoCq _ _ _ _ | .createIoSq _ _ _ _ | .getLogPage _ _ _ _ _
  | .nvmeFlush _ _ | .nvmeWrite _ _ _ _ _ | .nvmeRead _ _ _ _ _ => true

end Sys2Proof
end

