-- ==== Sys2Proof/Decode.lean ====
section
/-! DEFINITION. Byte order (rule R11), the decoder of CDBs, setup packets and submission entries (rules R111 to R144),
and the encoder written from the same tables. The decoder is total: it rejects by name what is no instruction. -/

namespace Sys2Proof

/-! ## Byte strings and byte order (rules R11, R79, R80, R81) -/

/-- `B[i]`; a byte past the end of the string reads as zero (rule R112). -/
def byteAt (b : Bytes) (i : Nat) : Byte := b.getD i 0

def getBE16 (b : Bytes) (i : Nat) : BitVec 16 := byteAt b i ++ byteAt b (i + 1)
def getBE24 (b : Bytes) (i : Nat) : BitVec 24 := byteAt b i ++ getBE16 b (i + 1)
def getBE32 (b : Bytes) (i : Nat) : BitVec 32 := getBE16 b i ++ getBE16 b (i + 2)
def getBE64 (b : Bytes) (i : Nat) : BitVec 64 := getBE32 b i ++ getBE32 b (i + 4)
def getLE16 (b : Bytes) (i : Nat) : BitVec 16 := byteAt b (i + 1) ++ byteAt b i
def getLE32 (b : Bytes) (i : Nat) : BitVec 32 := getLE16 b (i + 2) ++ getLE16 b i
def getLE64 (b : Bytes) (i : Nat) : BitVec 64 := getLE32 b (i + 4) ++ getLE32 b i
/-- CDB bytes 2 to 15, byte 2 most significant: the operand of `e6_params` (rule R129). -/
def getBE112 (b : Bytes) (i : Nat) : BitVec 112 := getBE64 b i ++ (getBE32 b (i + 8) ++ getBE16 b (i + 12))

def putBE16 (v : BitVec 16) : Bytes := [v.extractLsb' 8 8, v.extractLsb' 0 8]
def putBE24 (v : BitVec 24) : Bytes := v.extractLsb' 16 8 :: putBE16 (v.extractLsb' 0 16)
def putBE32 (v : BitVec 32) : Bytes := putBE16 (v.extractLsb' 16 16) ++ putBE16 (v.extractLsb' 0 16)
def putBE64 (v : BitVec 64) : Bytes := putBE32 (v.extractLsb' 32 32) ++ putBE32 (v.extractLsb' 0 32)
def putLE16 (v : BitVec 16) : Bytes := [v.extractLsb' 0 8, v.extractLsb' 8 8]
def putLE32 (v : BitVec 32) : Bytes := putLE16 (v.extractLsb' 0 16) ++ putLE16 (v.extractLsb' 16 16)
def putLE64 (v : BitVec 64) : Bytes := putLE32 (v.extractLsb' 0 32) ++ putLE32 (v.extractLsb' 32 32)
def putBE112 (v : BitVec 112) : Bytes :=
  putBE64 (v.extractLsb' 48 64) ++ (putBE32 (v.extractLsb' 16 32) ++ putBE16 (v.extractLsb' 0 16))

/-- `n` zero bytes. -/
def zeros (n : Nat) : Bytes := List.replicate n 0

/-- A byte string cut or filled with zeros to exactly `n` bytes (rule R112). -/
def padTo (n : Nat) (b : Bytes) : Bytes := (b ++ zeros n).take n

/-! ## What is decoded -/

/-- The three carriers of an instruction (rule R110): a CDB, a setup packet, a submission entry of queue pair `q`. -/
inductive Packet where
  | cdb (b : Bytes)
  | setup (b : Bytes)
  | sqe (q : QueueId) (b : Bytes)
deriving DecidableEq, Repr

/-- Why bytes are no instruction. -/
inductive DecodeError where
  /-- A CDB of no bytes or of more than 16 (rule R110). -/
  | cdbLength
  /-- A setup packet that is not 8 bytes (rule R131). -/
  | setupLength
  /-- A submission entry that is not 64 bytes (rule R139). -/
  | sqeLength
  /-- A submission entry with an opcode that rule R140 does not list for its queue. -/
  | sqeOpcode
  /-- A submission entry with a nonzero bit in a field that rules R139 and R140 give as zero. -/
  | sqeReserved
deriving DecidableEq, Repr

/-! ## CDBs (rules R114 to R130, R144) -/

/-- The instruction of a CDB: the opcode in byte 0, the sub-opcode in byte 1 where the opcode has one (rule R144). -/
def decodeCdb (b : Bytes) : Instr :=
  let op := byteAt b 0
  let sub := byteAt b 1
  if op = 0x00 then .testUnitReady
  else if op = 0x03 then .requestSense (byteAt b 4)
  else if op = 0x12 then .inquiry (sub.getLsbD 0) (byteAt b 2) (getBE16 b 3)
  else if op = 0x1A then .modeSense6 ((byteAt b 2).extractLsb' 6 2) ((byteAt b 2).extractLsb' 0 6) (byteAt b 4)
  else if op = 0x25 then .readCapacity10
  else if op = 0x28 then .read10 (getBE32 b 2) (getBE16 b 7)
  else if op = 0x2A then .write10 (getBE32 b 2) (getBE16 b 7)
  else if op = 0x35 then .synchronizeCache
  else if op = 0xA0 then .reportLuns (getBE32 b 6)
  else if op = 0xE0 then (if sub = 0x50 then .vendorE0_50 (byteAt b 2) else .vendorE0BadSub sub)
  else if op = 0xE1 then (if sub = 0x50 then .vendorE1_50 (byteAt b 2) else .vendorE1BadSub sub)
  else if op = 0xE2 then .vendorE2 (getBE32 b 1)
  else if op = 0xE3 then
    (if sub = 0x50 then .vendorE3_50 (getBE32 b 2)
     else if sub = 0xD0 then .vendorE3_D0 (getBE32 b 2) else .vendorE3BadSub sub)
  else if op = 0xE4 then .vendorE4 sub (getBE24 b 2)
  else if op = 0xE5 then .vendorE5 sub (getBE24 b 2)
  else if op = 0xE6 then
    (if sub = 0x02 then .vendorE6_02 (getBE112 b 2)
     else if sub = 0x06 then .vendorE6_06 (getBE112 b 2) else .vendorE6BadSub sub)
  else if op = 0xE8 then
    (if sub = 0x00 then .vendorE8_00 else if sub = 0x01 then .vendorE8_01
     else if sub = 0x51 then .vendorE8_51 else .vendorE8BadSub sub)
  else .illegalOpcode op

/-! ## Setup packets (rules R131, R132) -/

/-- The request of an 8-byte setup packet (rules R131, R132, R231). -/
def decodeSetup (b : Bytes) : Instr :=
  let t := byteAt b 0
  let r := byteAt b 1
  let v := getLE16 b 2
  let i := getLE16 b 4
  let l := getLE16 b 6
  if t = 0x80 ∧ r = 0x00 then .getStatusDevice v i l
  else if t = 0x81 ∧ r = 0x00 then .getStatusInterface v i l
  else if t = 0x82 ∧ r = 0x00 then .getStatusEndpoint v i l
  else if t = 0x02 ∧ r = 0x01 then .clearFeature v i l
  else if t = 0x00 ∧ r = 0x05 then .setAddress v i l
  else if t = 0x80 ∧ r = 0x06 then .getDescriptor (v.extractLsb' 8 8) (v.extractLsb' 0 8) i l
  else if t = 0x00 ∧ r = 0x09 then .setConfiguration v i l
  else if t = 0x21 ∧ r = 0xFF then .bulkOnlyReset v i l
  else .unhandledRequest t r v i l

/-! ## Submission entries (rules R139, R140) -/

/-- Every listed byte of `b` is zero. -/
def zeroAt (b : Bytes) (is : List Nat) : Bool := is.all fun i => byteAt b i == 0

/-- The bytes that are zero in every entry: `FUSE`/`PSDT`, reserved, `MPTR`, `PRP2`, `CDW13` to `CDW15` (rule R139). -/
def sqeReservedBytes : List Nat :=
  [1, 8, 9, 10, 11, 12, 13, 14, 15, 16, 17, 18, 19, 20, 21, 22, 23,
   32, 33, 34, 35, 36, 37, 38, 39, 52, 53, 54, 55, 56, 57, 58, 59, 60, 61, 62, 63]

/-- The command of a 64-byte entry of queue pair `q`, before the fields that rule R140 gives as zero are checked. -/
def sqeCommand (q : QueueId) (b : Bytes) : Option Instr :=
  let cid := getLE16 b 2
  let nsid := getLE32 b 4
  let prp1 := getLE64 b 24
  let c10 := getLE32 b 40
  let c11 := getLE32 b 44
  let slba : BitVec 64 := c11 ++ c10
  let nlb := getLE16 b 48
  let opc := byteAt b 0
  match q with
  | .admin =>
    if opc = 0x06 then some (.identify cid nsid prp1 c10 c11)
    else if opc = 0x05 then some (.createIoCq cid prp1 c10 c11)
    else if opc = 0x01 then some (.createIoSq cid prp1 c10 c11)
    else if opc = 0x02 then some (.getLogPage cid nsid prp1 c10 c11)
    else none
  | .io =>
    if opc = 0x00 then some (.nvmeFlush cid nsid)
    else if opc = 0x01 then some (.nvmeWrite cid nsid prp1 slba nlb)
    else if opc = 0x02 then some (.nvmeRead cid nsid prp1 slba nlb)
    else none

/-- The 64 bytes of an entry (rule R139): every byte not named is zero. -/
def sqeBytes (opc : Byte) (cid : BitVec 16) (nsid : BitVec 32) (prp1 : BitVec 64) (cdw10 cdw11 cdw12 : BitVec 32) : Bytes :=
  [opc, 0] ++ putLE16 cid ++ putLE32 nsid ++ zeros 16 ++ putLE64 prp1 ++ zeros 8
    ++ putLE32 cdw10 ++ putLE32 cdw11 ++ putLE32 cdw12 ++ zeros 12

/-! ## The encoder -/

/-- The carrier of an instruction, written from the encoding rules; every ignored byte is zero (rules R116 to R132, R139, R140). -/
def encode : Instr → Packet
  | .testUnitReady => .cdb (padTo 16 [0x00])
  | .requestSense alloc => .cdb (padTo 16 [0x03, 0, 0, 0, alloc])
  | .inquiry evpd page alloc => .cdb (padTo 16 ([0x12, if evpd then 1 else 0, page] ++ putBE16 alloc))
  | .modeSense6 pc page alloc => .cdb (padTo 16 [0x1A, 0, pc ++ page, 0, alloc])
  | .readCapacity10 => .cdb (padTo 16 [0x25])
  | .read10 lba blocks => .cdb (padTo 16 ([0x28, 0] ++ putBE32 lba ++ [0] ++ putBE16 blocks))
  | .write10 lba blocks => .cdb (padTo 16 ([0x2A, 0] ++ putBE32 lba ++ [0] ++ putBE16 blocks))
  | .synchronizeCache => .cdb (padTo 16 [0x35])
  | .reportLuns alloc => .cdb (padTo 16 ([0xA0, 0, 0, 0, 0, 0] ++ putBE32 alloc))
  | .vendorE0_50 n => .cdb (padTo 16 [0xE0, 0x50, n])
  | .vendorE1_50 n => .cdb (padTo 16 [0xE1, 0x50, n])
  | .vendorE2 length => .cdb (padTo 16 (0xE2 :: putBE32 length))
  | .vendorE3_50 length => .cdb (padTo 16 ([0xE3, 0x50] ++ putBE32 length))
  | .vendorE3_D0 length => .cdb (padTo 16 ([0xE3, 0xD0] ++ putBE32 length))
  | .vendorE4 size addr => .cdb (padTo 16 ([0xE4, size] ++ putBE24 addr))
  | .vendorE5 value addr => .cdb (padTo 16 ([0xE5, value] ++ putBE24 addr))
  | .vendorE6_02 rest => .cdb (padTo 16 ([0xE6, 0x02] ++ putBE112 rest))
  | .vendorE6_06 rest => .cdb (padTo 16 ([0xE6, 0x06] ++ putBE112 rest))
  | .vendorE8_00 => .cdb (padTo 16 [0xE8, 0x00])
  | .vendorE8_01 => .cdb (padTo 16 [0xE8, 0x01])
  | .vendorE8_51 => .cdb (padTo 16 [0xE8, 0x51])
  | .vendorE0BadSub sub => .cdb (padTo 16 [0xE0, sub])
  | .vendorE1BadSub sub => .cdb (padTo 16 [0xE1, sub])
  | .vendorE3BadSub sub => .cdb (padTo 16 [0xE3, sub])
  | .vendorE6BadSub sub => .cdb (padTo 16 [0xE6, sub])
  | .vendorE8BadSub sub => .cdb (padTo 16 [0xE8, sub])
  | .illegalOpcode op => .cdb (padTo 16 [op])
  | .getStatusDevice v i l => .setup ([0x80, 0x00] ++ putLE16 v ++ putLE16 i ++ putLE16 l)
  | .getStatusInterface v i l => .setup ([0x81, 0x00] ++ putLE16 v ++ putLE16 i ++ putLE16 l)
  | .getStatusEndpoint v i l => .setup ([0x82, 0x00] ++ putLE16 v ++ putLE16 i ++ putLE16 l)
  | .clearFeature v i l => .setup ([0x02, 0x01] ++ putLE16 v ++ putLE16 i ++ putLE16 l)
  | .setAddress v i l => .setup ([0x00, 0x05] ++ putLE16 v ++ putLE16 i ++ putLE16 l)
  | .getDescriptor type index i l => .setup ([0x80, 0x06, index, type] ++ putLE16 i ++ putLE16 l)
  | .setConfiguration v i l => .setup ([0x00, 0x09] ++ putLE16 v ++ putLE16 i ++ putLE16 l)
  | .bulkOnlyReset v i l => .setup ([0x21, 0xFF] ++ putLE16 v ++ putLE16 i ++ putLE16 l)
  | .unhandledRequest t r v i l => .setup ([t, r] ++ putLE16 v ++ putLE16 i ++ putLE16 l)
  | .identify cid nsid prp1 c10 c11 => .sqe .admin (sqeBytes 0x06 cid nsid prp1 c10 c11 0)
  | .createIoCq cid prp1 c10 c11 => .sqe .admin (sqeBytes 0x05 cid 0 prp1 c10 c11 0)
  | .createIoSq cid prp1 c10 c11 => .sqe .admin (sqeBytes 0x01 cid 0 prp1 c10 c11 0)
  | .getLogPage cid nsid prp1 c10 c11 => .sqe .admin (sqeBytes 0x02 cid nsid prp1 c10 c11 0)
  | .nvmeFlush cid nsid => .sqe .io (sqeBytes 0x00 cid nsid 0 0 0 0)
  | .nvmeWrite cid nsid prp1 slba nlb =>
    .sqe .io (sqeBytes 0x01 cid nsid prp1 (slba.extractLsb' 0 32) (slba.extractLsb' 32 32) (nlb.setWidth 32))
  | .nvmeRead cid nsid prp1 slba nlb =>
    .sqe .io (sqeBytes 0x02 cid nsid prp1 (slba.extractLsb' 0 32) (slba.extractLsb' 32 32) (nlb.setWidth 32))

/-! ## The decoder -/

/-- The byte positions that rule R140 gives as zero for the command `opc` of queue pair `q`, beyond rule R139's. -/
def sqeZeroBytes (q : QueueId) (opc : Byte) : List Nat :=
  match q with
  | .admin => if opc = 0x05 ∨ opc = 0x01 then [4, 5, 6, 7, 48, 49, 50, 51] else [48, 49, 50, 51]
  | .io =>
    if opc = 0x00 then [24, 25, 26, 27, 28, 29, 30, 31, 40, 41, 42, 43, 44, 45, 46, 47, 48, 49, 50, 51]
    else [50, 51]

/-- The command of an entry, refused by name where it is none the block issues. -/
def decodeSqe (q : QueueId) (b : Bytes) : Except DecodeError Instr :=
  if b.length ≠ 64 then .error .sqeLength
  else match sqeCommand q b with
    | none => .error .sqeOpcode
    | some i => if zeroAt b (sqeReservedBytes ++ sqeZeroBytes q (byteAt b 0)) then .ok i else .error .sqeReserved

/-- The decoder, total on any carrier and any bytes. -/
def decode : Packet → Except DecodeError Instr
  | .cdb b => if b.length = 0 ∨ 16 < b.length then .error .cdbLength else .ok (decodeCdb b)
  | .setup b => if b.length = 8 then .ok (decodeSetup b) else .error .setupLength
  | .sqe q b => decodeSqe q b

/-! ## The words of spec/opcode_table.json (rule R144) -/

/-- The `match` values of the table's `SETUP` rows with a full mask, over `(bmRequestType << 8) or bRequest`. -/
def setupWords : List Nat := [0x8000, 0x8100, 0x8200, 0x0201, 0x0005, 0x8006, 0x0009, 0x21FF]

/-- The `match` values of the table's `SQE` rows, over `(q << 8) or OPC`. -/
def sqeWords : List Nat := [0x0006, 0x0005, 0x0001, 0x0002, 0x0100, 0x0101, 0x0102]

/-- The carrier that a table word stands for. The three formats share one 16-bit space in the table and nothing in a
word says which is meant: a full-mask `SETUP` row wins over a full-mask `SQE` row, and both over the `CDB` rows
(rule R144: the larger mask wins; the order of the first two is a DESIGN CHOICE, notes/assumptions/2.md). -/
def packetOfTableWord (w : Nat) : Packet :=
  let hi : Byte := BitVec.ofNat 8 (w / 256)
  let lo : Byte := BitVec.ofNat 8 w
  if setupWords.contains (w % 65536) then .setup ([hi, lo] ++ zeros 6)
  else if sqeWords.contains (w % 65536) then .sqe (if hi = 0 then .admin else .io) (lo :: zeros 63)
  else .cdb ([hi, lo] ++ zeros 14)

/-- The instruction of a table word; every row of the table has 16 bits, so `nbits` selects nothing. -/
def decodeTableWord (_nbits w : Nat) : Option Instr :=
  match decode (packetOfTableWord w) with
  | .ok i => some i
  | .error _ => none

end Sys2Proof
end

