-- ==== Sys2Proof/Config.lean ====
section
/-! DEFINITION. The implementation parameters (rules R7, R8, R9) and the free values (93_implementation_defined.md).
A parameter the spec gives no value is an `opaque` constant without a body: nothing can be proved of its value. -/

namespace Sys2Proof

/-- The policy classes of a register address (rule R22). -/
inductive RegClass where
  | rw | ro | w1c | wse | rse | unmapped
deriving DecidableEq, Repr, Inhabited

/-- The named register roles (rules R23 to R27). -/
inductive Role where
  | usbEpEvent | usbEpClear | usbCtlPhase | usbCtlAck | usbConnect | usbEpStall
  | sysEvent
  | phyStatus | tunByteEn | tunLaneMap | tunCtrl | tunDone | linkReset | cpuReset
  | sqTailDb (q : QueueId) | cqHeadDb (q : QueueId)
  | dmaDir | dmaLen | dmaPtr | dmaStart | dmaDone
deriving DecidableEq, Repr, Inhabited

/-- Every role once (rules R23 to R27). -/
def Role.all : List Role :=
  [.usbEpEvent, .usbEpClear, .usbCtlPhase, .usbCtlAck, .usbConnect, .usbEpStall, .sysEvent,
   .phyStatus, .tunByteEn, .tunLaneMap, .tunCtrl, .tunDone, .linkReset, .cpuReset,
   .sqTailDb .admin, .sqTailDb .io, .cqHeadDb .admin, .cqHeadDb .io,
   .dmaDir, .dmaLen, .dmaPtr, .dmaStart, .dmaDone]

/-- The single bits of role registers whose positions the source does not give (rules R23 to R25). -/
inductive RoleBit where
  | ctlSetup | ctlData | ctlStatus
  | haltIn | haltOut
  | linkChange | cqeReady | sysTimer | error
  | phyRdyA | phyRdyB | bridgeEn | tunComplete
deriving DecidableEq, Repr, Inhabited

/-- The three control-transfer phases that are acknowledged by a byte (rule R230). -/
inductive AckPhase where
  | setup | data | status
deriving DecidableEq, Repr, Inhabited

namespace Config

/-! ## Parameters the source fixes (rule R7), and the defaults of rule R9 -/

def cbwLen : Nat := 31
def cswLen : Nat := 13
def cdbMax : Nat := 16
def sqeLen : Nat := 64
def cqeLen : Nat := 16
def stagingSize : Nat := 4096
/-- The spec default of `K_MAX` ("at most 8"). -/
def kMax : Nat := 8
/-- The spec default of `FAULT_RING_N` ("at least 8"). -/
def faultRingN : Nat := 8
def phyRetryMax : Nat := 3
/-- `POLL_COUNT_A` and `POLL_COUNT_B`: loop counts of the original, timing only; no rule compares them (U10). -/
def pollCountA : Nat := 0x0005D000
def pollCountB : Nat := 0x00020000
def cfgBlockLen : Nat := 128
def flashSector : Nat := 4096
def flashPage : Nat := 256
def fwPart1Base : Nat := 0x80
def fwPart2Base : Nat := 0x10000
def xdataReadMax : Nat := 64
def epNone : Nat := 8
def resetMagic : Byte := 0xA5
/-- `NSID`, default 1 (decision D33). -/
def nsid : BitVec 32 := 1
/-- `INQ_REV`, default four ASCII spaces (decision D30). -/
def inqRev : Bytes := [0x20, 0x20, 0x20, 0x20]

/-! ## Parameters the source names but gives no value (rule R8) -/

opaque queueDepthExtra : Fin 65528
/-- `QD`: at least `K_MAX + 1` and at least 2 (rule R8); at most 65536, since `QD - 1` fills 16 bits of `CDW10` (rule R140). -/
def queueDepth : Nat := kMax + 1 + queueDepthExtra.val

opaque tPhyReadyPred : Nat
opaque tLinkTrainPred : Nat
opaque tResumePred : Nat
opaque tDmaPred : Nat
opaque tNvmeCmdPred : Nat
opaque tCswFlushPred : Nat
/-- `T_phy_ready`, in ticks; positive (rules R7, R451). -/
def tPhyReady : Nat := tPhyReadyPred + 1
def tLinkTrain : Nat := tLinkTrainPred + 1
def tResume : Nat := tResumePred + 1
def tDma : Nat := tDmaPred + 1
def tNvmeCmd : Nat := tNvmeCmdPred + 1
def tCswFlush : Nat := tCswFlushPred + 1

/-- `NVME_RETRY_MAX`. -/
opaque nvmeRetryMax : Nat
/-- `PHY_INIT_LIST`: `(addr, mask, set)` triples. -/
opaque phyInitList : List (BitVec 16 × Byte × Byte)
/-- `CLOCK_GATE_LIST`: `(addr, mask, set)` triples. -/
opaque clockGateList : List (BitVec 16 × Byte × Byte)
/-- `LANE_MAP`, an abstract integer (rule R25 leaves the width unstated). -/
opaque laneMap : Nat
/-- `LINK_RESET_PATTERN`: `(addr, value)` writes. -/
opaque linkResetPattern : List (BitVec 16 × Byte)
/-- `Policy`, for addresses that are no role's (rules R22, R165). -/
opaque policy : BitVec 16 → RegClass

/-! ## Parameters the spec adds (rule R9) -/

/-- `A_<ROLE>` as proposed; `Machine.Role.addr` takes it where it meets decision D1 and rule R452. -/
opaque roleAddr : Role → BitVec 16
/-- `FAULT_RING_BASE` as proposed, under the same condition. -/
opaque faultRingAt : Nat
/-- The page of `STAGING_PCIE_ADDR` (4096-aligned) and the other PCIe bases as proposed; the bases below take them where
the five windows are disjoint (rule R423). -/
opaque stagingPage : BitVec 52
opaque sqPcieAt : QueueId → BitVec 64
opaque cqPcieAt : QueueId → BitVec 64

/-- `n` bytes at `a` and `m` bytes at `b` share no address. -/
def apart (a : BitVec 64) (n : Nat) (b : BitVec 64) (m : Nat) : Bool := decide (n ≤ (b - a).toNat) && decide (m ≤ (a - b).toNat)

/-- The windows of rule R423, as base and size. -/
def pcieWindows (staging : BitVec 64) (sq cq : QueueId → BitVec 64) : List (BitVec 64 × Nat) :=
  [(staging, stagingSize), (sq .admin, sqeLen * queueDepth), (sq .io, sqeLen * queueDepth),
   (cq .admin, cqeLen * queueDepth), (cq .io, cqeLen * queueDepth)]

/-- No two windows of a list overlap. -/
def disjoint (l : List (BitVec 64 × Nat)) : Bool := decide (l.Pairwise fun x y => apart x.1 x.2 y.1 y.2 = true)

/-- The proposed bases are bases (rule R423: "The windows do not overlap"). -/
def pcieOk : Bool := disjoint (pcieWindows (stagingPage ++ (0#12)) sqPcieAt cqPcieAt)

/-- `STAGING_PCIE_ADDR`; the bases are the proposed ones, or fixed disjoint ones where those overlap (notes/assumptions/30.md). -/
def stagingPcieAddr : BitVec 64 := if pcieOk then stagingPage ++ (0#12) else 0
/-- `SQ_PCIE_ADDR[q]`. -/
def sqPcieAddr (q : QueueId) : BitVec 64 :=
  if pcieOk then sqPcieAt q else match q with | .admin => 0x01000000 | .io => 0x02000000
/-- `CQ_PCIE_ADDR[q]`. -/
def cqPcieAddr (q : QueueId) : BitVec 64 :=
  if pcieOk then cqPcieAt q else match q with | .admin => 0x03000000 | .io => 0x04000000
opaque flashExtra : Nat
/-- `FLASH_SIZE`, at least `FW_PART2_BASE + 1` (rule R48). -/
def flashSize : Nat := fwPart2Base + 1 + flashExtra
/-- `FLASH_COLLATERAL = erased` (rule R9, decision D39). -/
opaque flashCollateralErased : Bool
/-- The bytes of `BOS_BODY` past the first three of each capability (rule R138). -/
opaque bosUsb2Tail : BitVec 32
opaque bosSuperSpeedTail : BitVec 56
/-- `e6_params` (decision D41): the four results, functions of the opcode and of CDB bytes 2 to 15. -/
opaque e6Nsid : Byte → BitVec 112 → BitVec 32
opaque e6Cdw10 : Byte → BitVec 112 → BitVec 32
opaque e6Cdw11 : Byte → BitVec 112 → BitVec 32
opaque e6Len : BitVec 112 → Fin 4097

/-! ## Register codings the source leaves open (rules R23 to R27, R230) -/

/-- The positions of the named bits and the ack bytes as proposed; `bitPos` and `ackByte` take them where the bits of
one register, and the ack bytes, are distinct. -/
opaque bitAt : RoleBit → Fin 8
opaque ackAt : AckPhase → Byte

/-- The named bits register by register (rules R23 to R25). -/
def bitGroups : List (List RoleBit) :=
  [[.ctlSetup, .ctlData, .ctlStatus], [.haltIn, .haltOut], [.linkChange, .cqeReady, .sysTimer, .error],
   [.phyRdyA, .phyRdyB], [.bridgeEn], [.tunComplete]]

/-- The bits of one register have different places. -/
def bitsOk (f : RoleBit → Fin 8) : Bool := bitGroups.all fun g => decide (g.map f).Nodup

/-- Each register's bits from bit 0 up. -/
def bitDefault : RoleBit → Fin 8
  | .ctlSetup | .haltIn | .linkChange | .phyRdyA | .bridgeEn | .tunComplete => 0
  | .ctlData | .haltOut | .cqeReady | .phyRdyB => 1
  | .ctlStatus | .sysTimer => 2
  | .error => 3

/-- The place of a named bit in its register. -/
def bitPos : RoleBit → Fin 8 := if bitsOk bitAt then bitAt else bitDefault

/-- The ack bytes of the three phases are different. -/
def acksOk (f : AckPhase → Byte) : Bool := decide ([f .setup, f .data, f .status].Nodup)

/-- Three different bytes. -/
def ackDefault : AckPhase → Byte
  | .setup => 1
  | .data => 2
  | .status => 3

/-- The ack byte of a phase (rule R230). -/
def ackByte : AckPhase → Byte := if acksOk ackAt then ackAt else ackDefault

opaque connectValue : Bool → Byte
opaque connectAction : Byte → Bool → Bool
/-- The byte a `WSE` role reads as where the spec calls it role-defined. -/
opaque wseValue : Role → Byte
/-- Which byte of its integer is behind the address of a role that stands for an abstract integer (rule R20, decision D3). -/
opaque wideIndex : Role → Nat

/-! ## Free values (93_implementation_defined.md) -/

/-- What a byte reads as that nothing has written since power-on number `epoch` (U1, U2, rule R483). -/
opaque unwritten : (epoch : Nat) → (key : Nat) → Byte
/-- What a read of an `UNMAPPED` address returns (U1); fresh for each value of the counter. -/
opaque unmappedByte : (counter : Nat) → Byte
/-- What a failed flash program leaves in the addressed range (U6). -/
opaque flashFailByte : (counter : Nat) → (addr : Nat) → Byte
/-- What a read of a read-side-effect address that is no role leaves there (U9, U17). -/
opaque rseNext : BitVec 16 → Byte → Byte
/-- What a write to a `WSE` or `RSE` address that is no role leaves there (U9). -/
opaque wseNext : BitVec 16 → Byte → Byte → Byte

theorem queueDepth_pos : 0 < queueDepth := by unfold queueDepth kMax; omega

end Config
end Sys2Proof
end

