-- ==== Sys2Proof/Machine/Memory.lean ====
section
/-! DEFINITION. The byte memory: the nine addressed spaces of rule R70 in one canonical list of (address, byte) pairs. -/

namespace Sys2Proof.Machine

/-- The addressed byte spaces (rule R70): `reg` is the backing array `xdata` of rule R29. -/
inductive Space where
  | reg | ctrlbuf | cswbuf | staging | flash
  | sq (q : QueueId)
  | cq (q : QueueId)
deriving DecidableEq, Repr

/-- The number of a space inside an address of the list. -/
def Space.code : Space → Nat
  | .reg => 0
  | .ctrlbuf => 1
  | .cswbuf => 2
  | .staging => 3
  | .flash => 4
  | .sq .admin => 8
  | .sq .io => 9
  | .cq .admin => 10
  | .cq .io => 11

/-- The address of byte `off` of a space in the one list: the spaces are interleaved, so no two bytes share an address
whatever the sizes (notes/assumptions/4.md). -/
def key (sp : Space) (off : Nat) : Nat := 16 * off + sp.code

/-- A list of (address, byte) pairs, addresses strictly rising, none equal to what an unlisted address reads as. -/
structure Memory where
  cells : List Host.Cell
deriving DecidableEq, Repr

/-- What an unlisted address reads as: the queues are zero after reset (rule R64); no other space has a stated content,
so an unlisted byte of it has no value here (rules R65, R66, R483). -/
def unlisted (a : Nat) : Option Byte := if 8 ≤ a % 16 then some 0 else none

/-- The pair listed at an address. -/
def lookupCell : List Host.Cell → Nat → Option Byte
  | [], _ => none
  | (k, b) :: rest, a => if k = a then some b else lookupCell rest a

/-- The byte at an address: the listed one, else what an unlisted address reads as. -/
def Memory.get (m : Memory) (a : Nat) : Option Byte :=
  match lookupCell m.cells a with
  | some b => some b
  | none => unlisted a

/-- Lists a byte at its place in the rising order. -/
def insertCell (a : Nat) (b : Byte) : List Host.Cell → List Host.Cell
  | [] => [(a, b)]
  | (k, c) :: rest =>
    if a < k then (a, b) :: (k, c) :: rest
    else if a = k then (a, b) :: rest
    else (k, c) :: insertCell a b rest

/-- Takes an address off the list. -/
def eraseCell (a : Nat) : List Host.Cell → List Host.Cell
  | [] => []
  | (k, c) :: rest => if k = a then eraseCell a rest else (k, c) :: eraseCell a rest

/-- Stores one byte, keeping the canonical form. -/
def Memory.put (m : Memory) (a : Nat) (b : Byte) : Memory :=
  if unlisted a = some b then ⟨eraseCell a m.cells⟩ else ⟨insertCell a b m.cells⟩

/-- Stores one byte of a space (`MemWrite` of rule R13, one byte). -/
def Memory.write (m : Memory) (sp : Space) (off : Nat) (b : Byte) : Memory := m.put (key sp off) b

/-- Stores a byte string at ascending offsets (`MemWrite` of rule R13). -/
def Memory.writeBytes (m : Memory) (sp : Space) (off : Nat) : Bytes → Memory
  | [] => m
  | b :: rest => (m.write sp off b).writeBytes sp (off + 1) rest

/-- Stores the bytes `f off`, `f (off + 1)`, … at `n` ascending offsets. -/
def Memory.fill (m : Memory) (sp : Space) (off : Nat) (f : Nat → Byte) : Nat → Memory
  | 0 => m
  | n + 1 => (m.write sp off (f off)).fill sp (off + 1) f n

/-- Keeps the listed bytes whose address satisfies `p`; the others read as unlisted. -/
def Memory.restrict (m : Memory) (p : Nat → Bool) : Memory := ⟨m.cells.filter fun c => p c.1⟩

/-- The queues at their reset content, every byte zero (rule R64). -/
def Memory.clearQueues (m : Memory) : Memory := m.restrict fun a => decide (a % 16 < 8)

/-- Only the flash keeps its content (rules R66, R470). -/
def Memory.keepFlash (m : Memory) : Memory := m.restrict fun a => decide (a % 16 = Space.flash.code)

/-- The canonical form. -/
abbrev Memory.wf (m : Memory) : Prop :=
  m.cells.Pairwise (fun c d => c.1 < d.1) ∧ ∀ c ∈ m.cells, unlisted c.1 ≠ some c.2

end Sys2Proof.Machine
end

