-- ==== Sys2Proof/Machine/State.lean ====
section
/-! DEFINITION. The state of the block as plain data (10_state.md), the model's own fields named as such, the reset state,
and the reasons a step can stop. -/

namespace Sys2Proof.Machine

/-! ## Link and power (rules R36, R37) -/

/-- The nine link states (rule R37). -/
inductive LinkState where
  | off | phyInit | linkTrain | tunnelCfg | ready | suspend | resume | fault | recovery
deriving DecidableEq, Repr

/-- The link/power record (rule R36). -/
structure Link where
  state : LinkState
  phyReady : Bool
  pcieLinkUp : Bool
  usbEnumerated : Bool
  suspended : Bool
  retryCounter : Nat
  timeoutCounter : Nat
  stateEntry : Nat
deriving DecidableEq, Repr

/-! ## Command context and sense (rules R30, R31, R34, R41) -/

/-- The seven values of `ctx.state` (rule R34). -/
inductive CtxState where
  | done | receivingCbw | awaitingData | executing | sendingData | awaitingCsw | stalled
deriving DecidableEq, Repr

/-- A transfer direction (rule R30). -/
inductive Dir where
  | dirIn | dirOut | dirNone
deriving DecidableEq, Repr

/-- What follows the acknowledged CSW (rule R31). -/
inductive AfterCsw where
  | nothing | haltBoth | hardReset | commitReset | reenumerate
deriving DecidableEq, Repr

/-- The command context (rules R30, R31). -/
structure Ctx where
  tag : BitVec 32
  direction : Dir
  expectedLen : BitVec 32
  cdb : Bytes
  lun : BitVec 4
  state : CtxState
  actual : BitVec 32
  cblen : BitVec 8
  cmdDir : Dir
  cmdLen : BitVec 64
  status : BitVec 8
  chunkIdx : Nat
  lba : BitVec 64
  blocksLeft : BitVec 32
  afterCsw : AfterCsw
deriving DecidableEq, Repr

/-- The sense record (rule R41). -/
structure Sense where
  key : BitVec 4
  asc : BitVec 8
  ascq : BitVec 8
  info : BitVec 32
  infoValid : Bool
deriving DecidableEq, Repr

/-! ## USB device and control transfers (rules R38, R39) -/

/-- What bulk-OUT is prepared to accept (rule R38). -/
inductive OutArmed where
  | none | cbw | data (n : Nat) | discard (n : Nat)
deriving DecidableEq, Repr

/-- What bulk-IN has been handed and the host has not taken (rule R38). -/
inductive InBusy where
  | none | data (n : Nat) | csw
deriving DecidableEq, Repr

/-- The USB device record (rule R38). `outTaken` (bytes accepted under the present arming, rule R247) and `ep0Stalled`
(endpoint 0 answers STALL until the next setup packet, rule R236) are the model's fields. -/
structure Usb where
  connected : Bool
  address : BitVec 7
  config : BitVec 8
  haltIn : Bool
  haltOut : Bool
  botResetRequired : Bool
  outArmed : OutArmed
  inBusy : InBusy
  outTaken : Nat
  ep0Stalled : Bool
deriving DecidableEq, Repr

/-- The phase of the control transfer in progress (rule R39). -/
inductive CtlPhase where
  | idle | setup | data | status
deriving DecidableEq, Repr

/-- The action owed at the status phase (rule R39). -/
inductive PendingAction where
  | none | botReset
deriving DecidableEq, Repr

/-- The control-transfer record (rule R39). `ep0In` (the bytes last handed to endpoint 0 IN) and `dataOwn` and `statusOwn` (the
data or status flag was raised after the last setup packet, so for the present transfer, rule R236) are the model's fields. -/
structure Ctl where
  phase : CtlPhase
  setup : Bytes
  reply : Bytes
  pendingAddress : Option (BitVec 7)
  pendingAction : PendingAction
  ep0In : Bytes
  dataOwn : Bool
  statusOwn : Bool
deriving DecidableEq, Repr

/-! ## Events (rule R40) -/

/-- The event record (rule R40). -/
structure Ev where
  epMask : BitVec 8
  ctlSetup : Bool
  ctlData : Bool
  ctlStatus : Bool
  sysLinkChange : Bool
  sysCqeReady : Bool
  sysTimer : Bool
  sysError : Bool
  usbSuspend : Bool
  usbResume : Bool
  usbBusReset : Bool
  tickPending : Bool
  resetRequested : Bool
  linkIsUp : Bool
deriving DecidableEq, Repr

/-! ## NVMe engine (rules R42 to R44) -/

/-- Who awaits a completion (rule R43). -/
inductive Owner where
  | none | ctx | init
deriving DecidableEq, Repr

/-- One slot of the pool (rule R43). -/
structure Slot where
  inUse : Bool
  q : QueueId
  sqe : Bytes
  cqe : Bytes
  phase : Bool
  cid : BitVec 16
  owner : Owner
  retries : Nat
  issuedAt : Nat
deriving DecidableEq, Repr

/-- A free slot as reset leaves it (rule R64; the other fields are notes/assumptions/6.md). -/
def Slot.free : Slot :=
  { inUse := false, q := .admin, sqe := [], cqe := [], phase := false, cid := 0, owner := .none, retries := 0, issuedAt := 0 }

/-- One queue pair's indices (rule R42) and its two doorbell registers (rule R26). -/
structure QueuePair where
  sqTail : Fin Config.queueDepth
  cqHead : Fin Config.queueDepth
  cqPhase : Bool
  consumed : Nat
  sqTailDb : Nat
  cqHeadDb : Nat
deriving DecidableEq, Repr

/-- An initialised queue pair: head, tail 0, expected phase 1 (rule R64). That its doorbell registers are 0, after
RECOVERY as after reset, is a DESIGN CHOICE (notes/assumptions/7.md). -/
def QueuePair.reset : QueuePair :=
  { sqTail := ⟨0, Config.queueDepth_pos⟩, cqHead := ⟨0, Config.queueDepth_pos⟩, cqPhase := true,
    consumed := 0, sqTailDb := 0, cqHeadDb := 0 }

/-- The bring-up step (rule R44). -/
inductive InitStep where
  | idle | idCtrl | idNs | createCq | createSq | done | failed
deriving DecidableEq, Repr

/-- The NVMe engine (rules R42 to R44). -/
structure Nvme where
  adminQ : QueuePair
  ioQ : QueuePair
  ioCreated : Bool
  nextCid : BitVec 16
  slots : List Slot
  init : InitStep
  identified : Bool
  nsSize : BitVec 64
  blockSize : BitVec 32
deriving DecidableEq, Repr

/-- The engine as reset and RECOVERY leave it (rule R64). -/
def Nvme.reset : Nvme :=
  { adminQ := .reset, ioQ := .reset, ioCreated := false, nextCid := 0,
    slots := List.replicate Config.kMax Slot.free, init := .idle, identified := false, nsSize := 0, blockSize := 0 }

/-! ## DMA (rule R45), fault ring (rule R47), flash and firmware (rules R48, R50), link hardware (rule R25) -/

/-- The direction of a DMA transfer (rule R45). -/
inductive DmaDir where
  | rx | tx
deriving DecidableEq, Repr

/-- The DMA record (rule R45). -/
structure Dma where
  dir : DmaDir
  len : Nat
  ptr : Nat
  busy : Bool
  done : Bool
  moved : Nat
deriving DecidableEq, Repr

/-- The fault codes (rule R436); `empty` is code 0x00. -/
inductive FaultCode where
  | empty | phyTimeout | tunnelTimeout | linkDown | hwError | dmaTimeout | nvmeTimeout | unexpectedEvent
  | hookUnimplemented | resetRequested | resumeTimeout | nvmeRetryExhausted | nvmeInitFailed | softReenumerate
deriving DecidableEq, Repr

/-- One fault record (rule R47). -/
structure FaultRec where
  state : LinkState
  elapsed : BitVec 32
  code : FaultCode
deriving DecidableEq, Repr

/-- The fault ring (rule R47). -/
structure FaultRing where
  recs : List FaultRec
  wr : Nat
  count : Nat
deriving DecidableEq, Repr

/-- The empty ring (rule R66). -/
def FaultRing.reset : FaultRing :=
  { recs := List.replicate Config.faultRingN { state := .off, elapsed := 0, code := .empty }, wr := 0, count := 0 }

/-- Firmware-update state (rule R50) and the valid mark of the flash (rule R48). -/
structure Fw where
  cursor1 : BitVec 32
  cursor2 : BitVec 32
  staged : Bool
  flashValid : Bool
deriving DecidableEq, Repr

/-- The levels the link hardware drives (rules R25, R208) and the tunnel registers the block writes (rule R25). -/
structure Phy where
  rdyA : Bool
  rdyB : Bool
  tunComplete : Bool
  clocksOn : Bool
  tunByteEn : BitVec 8
  tunLaneMap : Nat
  tunCtrl : BitVec 8
  linkReset : BitVec 8
deriving DecidableEq, Repr

/-- The bits of two `RW` role registers that no field of a record holds (rules R22, R166): the last byte written to
`USB_EP_STALL` and to `DMA_DIR`, of which the named bits are read from the record; the model's own field. -/
structure SpareBits where
  epStall : BitVec 8
  dmaDir : BitVec 8
deriving DecidableEq, Repr

/-! ## The sequencer's position (rules R35, R54, R173) -/

/-- Where a blocked wait continues: after a bulk-IN chunk, or after a bulk-OUT chunk, of `n` bytes (rules R281 to R283). -/
inductive Resume where
  | tx (n : Nat)
  | rx (n : Nat)
deriving DecidableEq, Repr

/-- A predicate a wait is on; the one wait of the block is on `DMA_DONE` (rules R414, R496). -/
inductive WaitPred where
  | dmaDone
deriving DecidableEq, Repr

/-- A blocked `wait_until` (rules R35, R181). -/
structure Wait where
  pred : WaitPred
  start : Nat
  bound : Nat
  resume : Resume
deriving DecidableEq, Repr

/-- A submission entry built and about to be issued by `Submit` (rule R373); the model's field. -/
structure SubmitReq where
  q : QueueId
  entry : Bytes
  owner : Owner
deriving DecidableEq, Repr

/-- The place inside a loop iteration (rule R173, one value for each numbered step and for the inside of a handler
that serves several items); the model's field. -/
inductive Pos where
  | top
  | busReset
  | ctlSetup
  | ctlData
  | epScan
  | epServe (snapshot : BitVec 8)
  | epClear (i : Nat) (snapshot : BitVec 8)
  | ctlStatus
  | sysLink
  | sysCqe
  | sysError
  | suspend
  | resume
  | periodic
  | timeouts (i : Nat)
  | poll (q : QueueId) (fromTick : Bool)
  | linkTick
deriving DecidableEq, Repr

/-- The sequencer's position (rule R35). -/
structure Seq where
  pos : Pos
  wait : Option Wait
  submit : Option SubmitReq
deriving DecidableEq, Repr

/-! ## The other agents (rule R455) -/

/-- One step of an agent other than the sequencer, or a turn of the sequencer (rules R94, R455). -/
inductive Input where
  /-- A turn of the sequencer. -/
  | seq
  /-- HOST and USB hardware: a setup packet arrives (rule R230). -/
  | setup (pkt : Bytes)
  /-- USB hardware: the data phase of the control transfer is due (rule R230). -/
  | ctlData
  /-- USB hardware: the status phase of the control transfer is due (rule R230). -/
  | ctlStatus
  /-- HOST: USB bus reset (rule R258). -/
  | busReset
  /-- HOST: suspend condition (rule R258). -/
  | suspend
  /-- HOST: resume condition (rule R258). -/
  | resume
  /-- HOST: one bulk-OUT transfer is offered (rule R247). -/
  | bulkOut (b : Bytes)
  /-- HOST: up to `n` bytes of the front bulk-IN transfer are taken (rule R248). -/
  | bulkIn (n : Nat)
  /-- USB hardware: endpoint index `i` needs service (rules R23, R176). -/
  | epEvent (i : Fin 8)
  /-- DMA engine: a step of up to `k` bytes (rule R412). -/
  | dma (k : Nat)
  /-- NVMe controller: a PCIe write (rules R375, R423, R425). -/
  | pcieWrite (addr : BitVec 64) (b : Bytes)
  /-- NVMe controller: the `CQE_READY` event (rule R375). -/
  | cqeReady
  /-- Link hardware: the two PHY status bits (rule R25). -/
  | phyBits (a b : Bool)
  /-- Link hardware: the tunnel "complete" bit (rule R25). -/
  | tunComplete (c : Bool)
  /-- Link hardware: the PCIe link level changes, `LINK_CHANGE` is raised (rules R24, R40). -/
  | linkChange (up : Bool)
  /-- Link hardware: the `ERROR` event (rule R24). -/
  | hwError
  /-- Hardware: a register of the backing array or a tunnel register takes the value `v` (rules R22, R163). -/
  | regChange (a : BitVec 16) (v : BitVec 8)
  /-- Hardware: what happens between the read and the write of the next `RegRmw` not yet provided for: the register takes a
  value, or nothing happens (rules R87, R163, R485). -/
  | rmwRace (v : Option (BitVec 8))
  /-- Link hardware: `clocks_on` (rule R208). -/
  | clocks (on : Bool)
  /-- TIMER: `n` ticks pass and `ev.tick_pending` is set (rules R40, R451). -/
  | tick (n : Nat)
  /-- TIMER: the `SYS_TIMER` event (rule R24). -/
  | sysTimer
  /-- FLASH driver: whether its next reads and programs succeed (rules R343, R455). -/
  | flashDriver (ok : Bool)
  /-- Environment: `ev.reset_requested` (rule R184). -/
  | resetRequest
  /-- Environment: power is applied (rule R470). -/
  | powerOn
deriving DecidableEq, Repr

/-! ## The state -/

/-- The state of the block. The model's own fields: `spare` (unnamed bits of role registers), `race` (what hardware does
between the halves of the next read-modify-writes, in order), `env` (what the other agents do, in order), `epoch`
(power-ons so far) and `free` (free values drawn so far). -/
structure State where
  ctx : Ctx
  sense : Sense
  link : Link
  usb : Usb
  ctl : Ctl
  ev : Ev
  nvme : Nvme
  dma : Dma
  faults : FaultRing
  fw : Fw
  phy : Phy
  spare : SpareBits
  seq : Seq
  ctrlLen : Nat
  usbOut : Bytes
  usbIn : List Bytes
  mem : Memory
  now : Nat
  flashOk : Bool
  env : List Input
  race : List (Option (BitVec 8))
  epoch : Nat
  free : Nat
deriving DecidableEq, Repr

/-! ## Reset values (rules R60 to R66) -/

/-- The context after reset (rule R61). -/
def Ctx.reset : Ctx :=
  { tag := 0, direction := .dirNone, expectedLen := 0, cdb := List.replicate 16 0, lun := 0, state := .done, actual := 0,
    cblen := 0, cmdDir := .dirNone, cmdLen := 0, status := 0, chunkIdx := 0, lba := 0, blocksLeft := 0, afterCsw := .nothing }

/-- "No sense" (rule R41), and the record as REQUEST SENSE clears it (rule R311). That the information is 0 after reset is a
DESIGN CHOICE (notes/assumptions/41.md). -/
def Sense.none : Sense := { key := 0, asc := 0, ascq := 0, info := 0, infoValid := false }

/-- The USB device after reset (rule R62). -/
def Usb.reset : Usb :=
  { connected := false, address := 0, config := 0, haltIn := false, haltOut := false, botResetRequired := false,
    outArmed := .none, inBusy := .none, outTaken := 0, ep0Stalled := false }

/-- The control-transfer record after reset (rule R62). -/
def Ctl.reset : Ctl :=
  { phase := .idle, setup := List.replicate 8 0, reply := [], pendingAddress := .none, pendingAction := .none, ep0In := [],
    dataOwn := false, statusOwn := false }

/-- No event pending (rule R63). -/
def Ev.reset : Ev :=
  { epMask := 0, ctlSetup := false, ctlData := false, ctlStatus := false, sysLinkChange := false, sysCqeReady := false,
    sysTimer := false, sysError := false, usbSuspend := false, usbResume := false, usbBusReset := false,
    tickPending := false, resetRequested := false, linkIsUp := false }

/-- The DMA record after reset (rule R65). -/
def Dma.reset : Dma := { dir := .rx, len := 0, ptr := 0, busy := false, done := false, moved := 0 }

/-- The link record after reset (rule R60); `link.state_entry` is `now`, which is 0 at power-on. -/
def Link.reset : Link :=
  { state := .off, phyReady := false, pcieLinkUp := false, usbEnumerated := false, suspended := false,
    retryCounter := 0, timeoutCounter := 0, stateEntry := 0 }

/-- The firmware state after reset (rule R65); the valid mark is notes/assumptions/7.md. -/
def Fw.reset : Fw := { cursor1 := 0, cursor2 := 0, staged := false, flashValid := false }

/-- The link hardware after reset (rule R473; the values it leaves open are notes/assumptions/7.md). -/
def Phy.reset : Phy :=
  { rdyA := false, rdyB := false, tunComplete := false, clocksOn := true, tunByteEn := 0, tunLaneMap := 0, tunCtrl := 0,
    linkReset := 0 }

/-- The unnamed bits of role registers after reset, a DESIGN CHOICE (notes/assumptions/7.md). -/
def SpareBits.reset : SpareBits := { epStall := 0, dmaDir := 0 }

/-- The sequencer at the first iteration of the loop (rules R63, R470). -/
def Seq.reset : Seq := { pos := .top, wait := none, submit := none }

/-- The machine right after power-on (rules R60 to R66, R470): memory with nothing listed, no input waiting. -/
def State.reset : State :=
  { ctx := .reset, sense := .none, link := .reset, usb := .reset, ctl := .reset, ev := .reset, nvme := .reset,
    dma := .reset, faults := .reset, fw := .reset, phy := .reset, spare := .reset, seq := .reset, ctrlLen := 0,
    usbOut := [], usbIn := [], mem := ⟨[]⟩, now := 0, flashOk := true, env := [], race := [], epoch := 0, free := 0 }

/-! ## Why a step stops -/

/-- A step that the machine cannot take. -/
inductive Fault where
  /-- A firmware chunk would be programmed past the end of the flash (`FLASH_SIZE`, rule R48): raised by the flash write of
  rule R348 where the cursor no longer satisfies the check that command made. Safe: the model stops where no rule says
  what happens. -/
  | flashOutOfRange
deriving DecidableEq, Repr

/-- Why a step has no meaning. -/
inductive Refusal where
  /-- An instruction that has no meaning yet; raised by no arm of this model. Safe. -/
  | notModelled (mnemonic : String)
  /-- A latched CDB that is no CDB (not 1 to 16 bytes); raised by the sequencer's fetch. Safe. -/
  | badCdb
  /-- A setup packet that is not 8 bytes; raised by the sequencer's fetch. Safe. -/
  | badSetup
  /-- A submission entry that is none of rule R140's commands; raised by the sequencer's fetch. Safe. -/
  | badSubmission
deriving DecidableEq, Repr

end Sys2Proof.Machine
end

