-- ==== Sys2Proof/Machine/Flags.lean ====
section
/-! DEFINITION. The computed conditions: endpoint lookup, residue, phase error, readiness, completion status and its sense,
fault and state codes, and the tables of expected events. -/

namespace Sys2Proof.Machine

/-! ## Endpoint lookup (rule R174) -/

/-- The least `i ≥ from` with bit `i` of `m` set, among the next `n` bits, else the sentinel 8. -/
def lowestSetFrom (m : BitVec 8) (i : Nat) : Nat → Nat
  | 0 => Config.epNone
  | n + 1 => if m.getLsbD i then i else lowestSetFrom m (i + 1) n

/-- `EP_LUT` (rule R174). -/
def epLut (m : BitVec 8) : Nat := lowestSetFrom m 0 8

/-- The one-hot mask `1 << i` (rule R175). -/
def oneHot (i : Nat) : BitVec 8 := 1#8 <<< i

/-! ## Status of a command -/

/-- `dCSWDataResidue` (rules R113, R284). -/
def residue (c : Ctx) : BitVec 32 := c.expectedLen - c.actual

/-- The phase-error predicate (rules R276, R277). -/
def phaseErr (c : Ctx) : Bool :=
  (decide (0 < c.cmdLen.toNat) && c.direction != c.cmdDir) || decide (c.expectedLen.toNat < c.cmdLen.toNat)

/-- `Ready()` (rule R321). -/
def ready (s : State) : Bool := s.link.state == .ready && s.nvme.identified

/-- A command in `RECEIVING_CBW`, `AWAITING_DATA`, `EXECUTING` or `SENDING_DATA` (rule R212). -/
def beforeCsw : CtxState → Bool
  | .receivingCbw | .awaitingData | .executing | .sendingData => true
  | .done | .awaitingCsw | .stalled => false

/-! ## Completion entries (rules R141, R389) -/

/-- The phase bit of a completion entry. -/
def cqePhase (e : Bytes) : Bool := (getLE16 e 14).getLsbD 0
/-- The 15-bit status of a completion entry. -/
def cqeStatus (e : Bytes) : BitVec 15 := (getLE16 e 14).extractLsb' 1 15
/-- The command id of a completion entry. -/
def cqeCid (e : Bytes) : BitVec 16 := getLE16 e 12
/-- Do Not Retry: bit 14 of the status (rule R389). -/
def doNotRetry (st : BitVec 15) : Bool := st.getLsbD 14

/-- The sense of a final non-zero status; `lba` is the LBA of the failing chunk (rule R388). That the information is 0
where none is given is a DESIGN CHOICE (notes/assumptions/41.md). -/
def senseOfStatus (st : BitVec 15) (lba : BitVec 32) : Sense :=
  let sct := st.extractLsb' 8 3
  let sc := st.extractLsb' 0 8
  if sct = 0 ∧ sc = 0x07 then { key := 0x0B, asc := 0, ascq := 0, info := 0, infoValid := false }
  else if sct = 0 ∧ sc = 0x0B then { key := 0x05, asc := 0x20, ascq := 0, info := 0, infoValid := false }
  else { key := 0x03, asc := 0x11, ascq := 0, info := lba, infoValid := true }

/-- A sense value without information (rules R274, R285, R286, R322). No rule says whether the old information stays; that it
becomes 0 is a DESIGN CHOICE (notes/assumptions/41.md). -/
def senseCode (key : BitVec 4) (asc ascq : BitVec 8) : Sense :=
  { key := key, asc := asc, ascq := ascq, info := 0, infoValid := false }

def senseNotReady : Sense := senseCode 0x02 0x04 0x00
def senseHardware : Sense := senseCode 0x04 0x00 0x00
def senseBadOpcode : Sense := senseCode 0x05 0x20 0x00
def senseLbaRange : Sense := senseCode 0x05 0x21 0x00
def senseBadField : Sense := senseCode 0x05 0x24 0x00

/-! ## Codes (rules R143, R436) -/

/-- The state code of a fault record (rule R143). -/
def linkCode : LinkState → BitVec 8
  | .off => 0 | .phyInit => 1 | .linkTrain => 2 | .tunnelCfg => 3 | .ready => 4
  | .suspend => 5 | .resume => 6 | .fault => 7 | .recovery => 8

/-- The numeric fault code (rule R436). -/
def faultCode : FaultCode → BitVec 8
  | .empty => 0x00 | .phyTimeout => 0x01 | .tunnelTimeout => 0x02 | .linkDown => 0x03 | .hwError => 0x04
  | .dmaTimeout => 0x05 | .nvmeTimeout => 0x06 | .unexpectedEvent => 0x07 | .hookUnimplemented => 0x08
  | .resetRequested => 0x09 | .resumeTimeout => 0x0A | .nvmeRetryExhausted => 0x0B | .nvmeInitFailed => 0x0C
  | .softReenumerate => 0x0D

/-! ## Expected events (rules R215, R293) -/

/-- What an event meets in a state: handled, ignored with its flag cleared, or unexpected (rule R215). -/
inductive Expect where
  | handle | ignore | unexpected
deriving DecidableEq, Repr

/-- Control-transfer phase flags and bulk endpoint events by link state (rule R215); in `FAULT` a bulk event is handled
for the CSW acknowledgement only, by `bulkInHandler`. -/
def expectUsb : LinkState → Expect
  | .ready | .resume => .handle
  | .fault | .recovery => .ignore
  | .off | .phyInit | .linkTrain | .tunnelCfg | .suspend => .unexpected

/-- `CQE_READY` by link state (rule R215). -/
def expectCqe : LinkState → Expect
  | .tunnelCfg | .ready | .suspend | .resume => .handle
  | .fault | .recovery => .ignore
  | .off | .phyInit | .linkTrain => .unexpected

/-- A bulk-OUT event is expected in these context states (rule R293). -/
def expectBulkOut (s : State) : Bool :=
  s.usb.config != 0 &&
  match s.ctx.state with
  | .done | .awaitingData => true
  | .receivingCbw | .executing | .sendingData | .awaitingCsw | .stalled => false

/-- A bulk-IN event is expected in these context states (rule R293). -/
def expectBulkIn (s : State) : Bool :=
  s.usb.config != 0 && s.usb.inBusy != .none &&
  match s.ctx.state with
  | .sendingData | .awaitingCsw => true
  | .stalled => s.usb.inBusy == .csw
  | .done | .receivingCbw | .awaitingData | .executing => false

end Sys2Proof.Machine
end

