-- ==== Sys2Proof/Machine/RegMap.lean ====
section
/-! DEFINITION. The map of the register space: the regions, the place, class and address of every role, the fault-ring window,
and what an address selects (rules R20 to R29, R143, R165). -/

namespace Sys2Proof.Machine

/-! ## Regions and places -/

/-- The seven named regions (rules R21, R452). -/
inductive Region where
  | usb | pcieTunnel | uart | nvme | timerCpu | commandEngine | nvmeEvent
deriving DecidableEq, Repr

/-- Every region once. -/
def Region.all : List Region := [.usb, .pcieTunnel, .uart, .nvme, .timerCpu, .commandEngine, .nvmeEvent]

/-- First address of a region. -/
def Region.base : Region → Nat
  | .usb => 0x9000 | .pcieTunnel => 0xB200 | .uart => 0xC000 | .nvme => 0xC400 | .timerCpu => 0xCC00
  | .commandEngine => 0xE400 | .nvmeEvent => 0xEC00

/-- Bytes of a region. -/
def Region.size : Region → Nat
  | .usb => 1024 | .pcieTunnel => 768 | .uart => 16 | .nvme => 512 | .timerCpu => 256 | .commandEngine => 48
  | .nvmeEvent => 16

/-- The address lies in the region. -/
def Region.contains (g : Region) (a : BitVec 16) : Bool := decide (g.base ≤ a.toNat) && decide (a.toNat < g.base + g.size)

/-- Where the address of a role may lie. -/
inductive Place where
  | inside (g : Region)
  | outside
  | notUart
deriving DecidableEq, Repr

/-- The place of a role: in the region its table names (rules R23, R25, R26, decision D1), outside every region for the
PHY (conflict C24), else wherever the implementation puts it (rules R24, R27) but in the UART region, which the block never
reads and writes for traces only (rule R21). -/
def Role.place : Role → Place
  | .usbEpEvent | .usbEpClear | .usbCtlPhase | .usbCtlAck | .usbConnect | .usbEpStall => .inside .usb
  | .tunByteEn | .tunLaneMap | .tunCtrl | .tunDone => .inside .pcieTunnel
  | .sqTailDb _ | .cqHeadDb _ => .inside .nvme
  | .phyStatus => .outside
  | .sysEvent | .linkReset | .cpuReset | .dmaDir | .dmaLen | .dmaPtr | .dmaStart | .dmaDone => .notUart

/-- The address is at the place. -/
def Place.admits (p : Place) (a : BitVec 16) : Bool :=
  match p with
  | .inside g => g.contains a
  | .outside => Region.all.all fun g => !g.contains a
  | .notUart => !Region.uart.contains a

/-! ## Classes -/

/-- The class rules R23 to R27 give a role. -/
def Role.cls : Role → RegClass
  | .usbEpEvent | .usbCtlPhase | .phyStatus | .tunDone | .dmaDone => .ro
  | .usbEpClear | .sysEvent => .w1c
  | .usbCtlAck | .usbConnect | .linkReset | .cpuReset | .sqTailDb _ | .cqHeadDb _ | .dmaStart => .wse
  | .usbEpStall | .tunByteEn | .tunLaneMap | .tunCtrl | .dmaDir | .dmaLen | .dmaPtr => .rw

/-- The size of the fault-ring window (rule R143). -/
def faultRingSize : Nat := 8 + 8 * Config.faultRingN

/-! ## Addresses -/

/-- The address lies in the fault-ring window at `ring`. -/
def inRing (ring : Nat) (a : BitVec 16) : Bool := decide (ring ≤ a.toNat) && decide (a.toNat < ring + faultRingSize)

/-- The ring window lies in the space and outside the UART region (rules R21, R143). -/
def ringPlaced (ring : Nat) : Bool :=
  decide (ring + faultRingSize ≤ 65536) &&
    (decide (ring + faultRingSize ≤ Region.uart.base) || decide (Region.uart.base + Region.uart.size ≤ ring))

/-- The role addresses are pairwise distinct and each at its place, and the ring window is at its own and holds none of
them (decision D1, rules R21, R143 and R452, conflict C24). -/
def layoutOk (addr : Role → BitVec 16) (ring : Nat) : Bool :=
  decide (Role.all.map addr).Nodup && Role.all.all (fun r => (Role.place r).admits (addr r) && !inRing ring (addr r)) &&
    ringPlaced ring

/-- One layout that meets the conditions. -/
def Role.defaultAddr : Role → BitVec 16
  | .usbEpEvent => 0x9000 | .usbEpClear => 0x9001 | .usbCtlPhase => 0x9002 | .usbCtlAck => 0x9003
  | .usbConnect => 0x9004 | .usbEpStall => 0x9005
  | .tunByteEn => 0xB200 | .tunLaneMap => 0xB201 | .tunCtrl => 0xB202 | .tunDone => 0xB203
  | .sqTailDb .admin => 0xC400 | .sqTailDb .io => 0xC401 | .cqHeadDb .admin => 0xC402 | .cqHeadDb .io => 0xC403
  | .phyStatus => 0x0000 | .sysEvent => 0x0001 | .linkReset => 0x0002 | .cpuReset => 0x0003
  | .dmaDir => 0x0004 | .dmaLen => 0x0005 | .dmaPtr => 0x0006 | .dmaStart => 0x0007 | .dmaDone => 0x0008

/-- The ring base of that layout. -/
def defaultRingBase : Nat := 0x0100

/-- The proposed layout meets the conditions. -/
def layoutGiven : Bool := layoutOk Config.roleAddr Config.faultRingAt

/-- `A_<ROLE>` (rule R9, decision D1): the proposed address where the proposed layout meets the conditions, else that of a
layout that does, so every layout the spec admits is covered and no other (notes/assumptions/13.md). -/
def Role.addr (r : Role) : BitVec 16 := if layoutGiven then Config.roleAddr r else Role.defaultAddr r

/-- `FAULT_RING_BASE` (rules R9, R143), chosen with the addresses. -/
def faultRingBase : Nat := if layoutGiven then Config.faultRingAt else defaultRingBase

/-- What an address of the register space selects (rules R29, R143, R165). -/
inductive Target where
  | role (r : Role)
  | ring (off : Nat)
  | plain
deriving DecidableEq, Repr

/-- The role at an address, if any. -/
def roleAt (a : BitVec 16) : Option Role := Role.all.find? fun r => Role.addr r == a

/-- What an address selects. -/
def target (a : BitVec 16) : Target :=
  match roleAt a with
  | some r => .role r
  | none =>
    if inRing faultRingBase a then .ring (a.toNat - faultRingBase) else .plain

/-- The class of an address: the role's, read-only for the ring window, else `Policy` (rules R22, R143, R165). -/
def policyOf (a : BitVec 16) : RegClass :=
  match target a with
  | .role r => Role.cls r
  | .ring _ => .ro
  | .plain => Config.policy a

/-- `Writable(a)` for an address of the backing array (rule R22). -/
def plainRw (a : BitVec 16) : Bool := target a == .plain && Config.policy a == .rw

/-- An address that `PHY_INIT_LIST` and `CLOCK_GATE_LIST` may name: an `RW` address of the backing array (rule R163) that is
not the UART's (rule R21). Rule R28 does not say which addresses of the timer/CPU region are the timer's raw registers; that an
`RW` address there may be named is a DESIGN CHOICE (notes/assumptions/16.md). -/
def listable (a : BitVec 16) : Bool := plainRw a && !Region.uart.contains a

end Sys2Proof.Machine
end

