-- ==== Sys2Proof/Machine/Ops.lean ====
section
/-! DEFINITION. The shared operations: bytes of a space, link entry, DMA, halts, the CSW, every way a command ends, taking a
fault and returning from it, the resets, chunks and submissions. -/

namespace Sys2Proof.Machine

/-! ## Bytes (rules R13, R70) -/

/-- The power-on a space's unwritten bytes date from; the flash keeps its content through every reset (rule R66). -/
def epochOf (sp : Space) (epoch : Nat) : Nat :=
  match sp with
  | .flash => 0
  | .reg | .ctrlbuf | .cswbuf | .staging | .sq _ | .cq _ => epoch

/-- A byte of a space; one that nothing has written is the free value of U1 and U2. -/
def memByte (epoch : Nat) (m : Memory) (sp : Space) (off : Nat) : Byte :=
  match m.get (key sp off) with
  | some b => b
  | none => Config.unwritten (epochOf sp epoch) (key sp off)

/-- `n` bytes from `off` (`MemRead` of rule R13). -/
def memBytes (epoch : Nat) (m : Memory) (sp : Space) (off : Nat) : Nat → Bytes
  | 0 => []
  | n + 1 => memByte epoch m sp off :: memBytes epoch m sp (off + 1) n

/-- A byte of a space of the machine. -/
def State.byte (s : State) (sp : Space) (off : Nat) : Byte := memByte s.epoch s.mem sp off
/-- `n` bytes of a space of the machine. -/
def State.bytes (s : State) (sp : Space) (off n : Nat) : Bytes := memBytes s.epoch s.mem sp off n

/-- Stores a byte string in a space. -/
def storeBytes (sp : Space) (off : Nat) (b : Bytes) (s : State) : State := { s with mem := s.mem.writeBytes sp off b }

/-! ## The register list of rules R162, R194 -/

/-- The new byte of a read-modify-write (rule R162, decision D62). -/
def rmwByte (old mask set : Byte) : Byte := (old &&& ~~~mask) ||| (set &&& mask)

/-- What hardware does between the read and the write of a read-modify-write, where `change` gives the register a value
(rules R87, R163, R485); the front of `race` is used up. -/
def hwBetween (change : Byte → State → State) (s : State) : State :=
  match s.race with
  | [] => s
  | none :: rest => { s with race := rest }
  | some v :: rest => change v { s with race := rest }

/-- The register's byte is changed in the backing array. -/
def hwStore (a : BitVec 16) (v : Byte) (s : State) : State := { s with mem := s.mem.write .reg a.toNat v }

/-- `RegRmw` on an address that a list may name, as a read and a write with the hardware between them; a triple of another
address has no effect (notes/assumptions/16.md). -/
def rmwOne (s : State) (t : BitVec 16 × Byte × Byte) : State :=
  if listable t.1 then
    hwStore t.1 (rmwByte (s.byte .reg t.1.toNat) t.2.1 t.2.2) (hwBetween (hwStore t.1) s)
  else s

/-- A list of triples, applied in list order (rule R194). -/
def rmwList (l : List (BitVec 16 × Byte × Byte)) (s : State) : State := l.foldl rmwOne s

/-- The inverse of a gate list: reverse order, `set` complemented under the mask (rule R207). -/
def inverseList (l : List (BitVec 16 × Byte × Byte)) : List (BitVec 16 × Byte × Byte) :=
  (l.map fun t => (t.1, t.2.1, t.2.2 ^^^ t.2.1)).reverse

/-! ## Link entry, DMA abort, orphans, halts -/

/-- `Enter(S)` (rule R192). -/
def enter (l : LinkState) (s : State) : State :=
  { s with link := { s.link with state := l, stateEntry := s.now, timeoutCounter := 0 } }

/-- Abort DMA (rule R416). -/
def abortDma (s : State) : State := { s with dma := { s.dma with busy := false, done := false, len := 0, moved := 0 } }

/-- The slots of the context become orphans. -/
def orphanSlot (sl : Slot) : Slot := if sl.owner = .ctx then { sl with owner := .none } else sl

/-- `for each slot s with s.owner = CTX: s.owner <- NONE` (rules R184, R212, R255, R260, R285, R342). -/
def orphanCtx (s : State) : State := { s with nvme := { s.nvme with slots := s.nvme.slots.map orphanSlot } }

/-- Halting bulk-OUT (rule R250); the unnamed bits of `USB_EP_STALL` stay as they were (notes/assumptions/14.md). -/
def haltOut (s : State) : State := { s with usb := { s.usb with haltOut := true, outArmed := .none }, usbOut := [] }
/-- Halting bulk-IN (rule R250), in the same way. -/
def haltIn (s : State) : State := { s with usb := { s.usb with haltIn := true, inBusy := .none }, usbIn := [] }

/-- What bulk-OUT accepts of a data phase: nothing while the configuration is 0 (rule R249, notes/assumptions/42.md). -/
def dataArm (s : State) (a : OutArmed) : OutArmed := if s.usb.config = 0 then .none else a

/-- Prepares bulk-OUT to accept `a` (rule R247). -/
def armOut (a : OutArmed) (s : State) : State := { s with usb := { s.usb with outArmed := a, outTaken := 0 } }

/-- The current handler raised: the iteration ends and the next one starts at step 1 (rule R173). -/
def endIteration (s : State) : State := { s with seq := { pos := .top, wait := none, submit := none } }

/-! ## Ending a command (rules R284 to R286, R274, R342) -/

/-- The 13 bytes of the CSW (rules R113, R284). -/
def cswBytes (c : Ctx) : Bytes := [0x55, 0x53, 0x42, 0x53] ++ putLE32 c.tag ++ putLE32 (residue c) ++ [c.status]

/-- What bulk-OUT drops after the CSW was built (rule R284). -/
def discardArm (s : State) : OutArmed :=
  if s.ctx.direction = .dirOut ∧ 0 < (residue s.ctx).toNat ∧ s.usb.haltOut = false then
    dataArm s (.discard (residue s.ctx).toNat)
  else .none

/-- Building and handing over the CSW (rule R284). -/
def handCsw (s : State) : State :=
  { s with
    mem := s.mem.writeBytes .cswbuf 0 (cswBytes s.ctx)
    usbIn := s.usbIn ++ [cswBytes s.ctx]
    usb := { s.usb with inBusy := .csw, outArmed := discardArm s, outTaken := 0 }
    ctx := { s.ctx with state := .awaitingCsw } }

/-- `Finish(st)` (rule R276). -/
def finish (st : BitVec 8) (s : State) : State := handCsw { s with ctx := { s.ctx with status := st } }

/-- `raise CheckCondition` (rule R285). -/
def checkCondition (sense : Sense) (s : State) : State :=
  finish 1 (armOut .none (orphanCtx { s with sense := sense }))

/-- `raise VendorError` (rule R342). -/
def vendorError (s : State) : State := finish 1 (armOut .none (orphanCtx s))

/-- `raise PhaseError` (rule R286). -/
def phaseError (s : State) : State :=
  finish 2 { s with sense := senseBadField, ctx := { s.ctx with afterCsw := .haltBoth } }

/-- Both bulk endpoints halted, a BOT reset owed, the context stalled (rules R274, R289). -/
def haltBoth (s : State) : State :=
  let t := haltOut (haltIn s)
  { t with usb := { t.usb with botResetRequired := true }, ctx := { t.ctx with state := .stalled } }

/-- `raise InvalidCBW` (rule R274). -/
def invalidCbw (s : State) : State := haltBoth { s with sense := senseBadField }

/-! ## The fault ring and taking a fault (rules R212, R213, R446) -/

/-- The record of the present link state (rules R212, R451). -/
def faultRecord (code : FaultCode) (s : State) : FaultRec :=
  { state := s.link.state, elapsed := BitVec.ofNat 32 (s.now - s.link.stateEntry), code := code }

/-- A record written at the ring's index (rule R213). -/
def FaultRing.append (r : FaultRing) (x : FaultRec) : FaultRing :=
  { recs := r.recs.set r.wr x, wr := (r.wr + 1) % Config.faultRingN, count := min (r.count + 1) (2 ^ 32 - 1) }

/-- `append_fault` (rule R213). -/
def appendFault (code : FaultCode) (s : State) : State := { s with faults := s.faults.append (faultRecord code s) }

/-- The command in flight fails with HARDWARE ERROR (rule R212). -/
def failInFlight (s : State) : State :=
  if beforeCsw s.ctx.state then
    let t := finish 1 { orphanCtx (abortDma s) with sense := senseHardware }
    { t with ctx := { t.ctx with afterCsw := .nothing } }
  else s

/-- TAKING A FAULT: `raise Fault(code)` (rules R212, R446). The record saves the state and the ticks spent in it, the
command in flight fails, the link machine enters `FAULT`; in `FAULT` and `RECOVERY` only the record is written. The handler
that raised it ends the iteration (rules R173, R445). -/
def raiseFault (code : FaultCode) (s : State) : State :=
  match s.link.state with
  | .fault | .recovery => endIteration (appendFault code s)
  | .off | .phyInit | .linkTrain | .tunnelCfg | .ready | .suspend | .resume =>
    endIteration (enter .fault (failInFlight (appendFault code s)))

/-! ## Clearing the USB state, the resets, and the return from a fault -/

/-- The context is destroyed, its DMA transfer aborted, its slots orphaned (rules R255, R260). -/
def dropContext (s : State) : State :=
  let t := orphanCtx (abortDma s)
  { t with ctx := { t.ctx with state := .done, afterCsw := .nothing } }

/-- Clearing the USB state (rule R260); all of `ctl` goes back to its reset value (rules R219, R472). That the buffers keep
their bytes is a DESIGN CHOICE (U2, notes/assumptions/40.md). -/
def clearUsb (s : State) : State :=
  let t := dropContext s
  { t with
    usb := { t.usb with address := 0, config := 0, haltIn := false, haltOut := false, botResetRequired := false,
                        outArmed := .none, inBusy := .none, outTaken := 0, ep0Stalled := false }
    link := { t.link with usbEnumerated := false }
    usbIn := [], usbOut := []
    ctl := .reset
    ev := { t.ev with ctlSetup := false, ctlData := false, ctlStatus := false, epMask := 0 } }

/-- Bulk-OUT is armed for a CBW where the configuration is 1 and the endpoint is not halted (rules R242, R255). -/
def armCbwIf (ok : Bool) (s : State) : State := if ok then armOut .cbw s else s

/-- The BOT reset action (rule R255); the buffers keep their bytes (notes/assumptions/40.md). -/
def botReset (s : State) : State :=
  let t := dropContext s
  let u := { t with usb := { t.usb with botResetRequired := false, inBusy := .none, outArmed := .none, outTaken := 0 },
                    usbIn := [], usbOut := [] }
  armCbwIf (u.usb.config == 1 && !u.usb.haltOut) u

/-- Every byte of `LINK_RESET_PATTERN` written to `LINK_RESET` in order (rule R214). -/
def writeLinkReset (s : State) : State :=
  { s with phy := { s.phy with linkReset := ((Config.linkResetPattern.map Prod.snd).getLast?).getD s.phy.linkReset } }

/-- The NVMe engine back to its reset state (rules R64, R398), its doorbell registers too (notes/assumptions/7.md). -/
def resetNvme (s : State) : State := { s with nvme := .reset, mem := s.mem.clearQueues }

/-- THE RETURN FROM A FAULT: `FAULT → RECOVERY → PHY_INIT`, one step (rules R214, R447). `PHY_INIT_LIST` is applied with no
effect on the state, as rule R194 allows and rules R214, R219 and R472 require of `xdata` (notes/assumptions/16.md). That the
buffers keep their bytes (U2) is a DESIGN CHOICE (notes/assumptions/40.md). -/
def recover (s : State) : State :=
  let t := clearUsb (enter .recovery { s with usb := { s.usb with connected := false } })
  let u := resetNvme (abortDma t)
  let v := writeLinkReset { u with fw := { u.fw with cursor1 := 0, cursor2 := 0 } }
  let w := { v with link := { v.link with phyReady := false, pcieLinkUp := false, usbEnumerated := false,
                                          suspended := false, retryCounter := 0 } }
  enter .phyInit w

/-- Power-on reset, and the hard CPU reset by a write of 0xA5 (rules R470, R471): every record at its reset value, the
flash and its valid mark kept; time, the other agents and the free values go on. -/
def powerOn (s : State) : State :=
  { State.reset with
    mem := s.mem.keepFlash
    fw := { Fw.reset with flashValid := s.fw.flashValid }
    link := { Link.reset with stateEntry := s.now }
    phy := { Phy.reset with clocksOn := s.phy.clocksOn }
    now := s.now, env := s.env, race := s.race, flashOk := s.flashOk, epoch := s.epoch + 1, free := s.free }

/-! ## Endpoint 0 (rules R231, R236) -/

/-- The second line of rule R231: an earlier transfer is abandoned. -/
def ctlBegin (s : State) : State :=
  { s with ctl := { s.ctl with reply := [], pendingAddress := none, pendingAction := .none } }

/-- The last two lines of rule R231: the setup flag is acknowledged and the phase set. -/
def ctlAccept (deviceToHost : Bool) (wLength : BitVec 16) (s : State) : State :=
  { s with
    ev := { s.ev with ctlSetup := false }
    ctl := { s.ctl with phase := if deviceToHost && wLength != 0 then .data else .status } }

/-- `raise Ep0Stall` (rule R236). No data or status flag is left of the transfer: one raised for it before its setup handler
ran is taken back (notes/assumptions/46.md), and none is raised until the next setup packet. An earlier transfer's stays. -/
def ep0Stall (s : State) : State :=
  { s with
    ctl := { s.ctl with reply := [], pendingAddress := none, pendingAction := .none, phase := .idle }
    ev := { s.ev with ctlSetup := false, ctlData := s.ev.ctlData && !s.ctl.dataOwn,
                      ctlStatus := s.ev.ctlStatus && !s.ctl.statusOwn }
    usb := { s.usb with ep0Stalled := true } }

/-! ## DMA set-up and waits (rules R410, R411, R414) -/

/-- `dma_setup_usb_rx(n)` or `dma_setup_usb_tx(n)`; the write of 0 or 1 to `DMA_DIR` clears its unused bits. -/
def dmaSetup (dir : DmaDir) (n : Nat) (s : State) : State :=
  { s with
    dma := { dir := dir, len := n, ptr := 0, moved := 0, done := false, busy := true }
    spare := { s.spare with dmaDir := 0 } }

/-- `dma_wait_complete()`: SEQ blocks until `DMA_DONE` or `T_dma` (rules R181, R414). -/
def dmaWait (r : Resume) (s : State) : State :=
  { s with seq := { s.seq with wait := some { pred := .dmaDone, start := s.now, bound := Config.tDma, resume := r } } }

/-! ## Chunks (rules R279 to R283) -/

/-- `send_chunk(n)` up to its wait (rule R281). -/
def sendChunk (n : Nat) (s : State) : State :=
  dmaWait (.tx n) (dmaSetup .tx n { s with ctx := { s.ctx with state := .sendingData } })

/-- Class `IN_BUF` once the response is in `STAGING` (rule R281). -/
def sendBuf (s : State) : State := if s.ctx.cmdLen = 0 then finish 0 s else sendChunk s.ctx.cmdLen.toNat s

/-- `Submit(q, cmd, owner)` is called with the built entry; the sequencer issues it next (rule R373). -/
def callSubmit (p : Packet) (owner : Owner) (s : State) : State :=
  match p with
  | .sqe q e => { s with seq := { s.seq with submit := some { q := q, entry := e, owner := owner } } }
  | .cdb _ | .setup _ => s

/-- Blocks of the next READ chunk (rule R282). -/
def chunkBlocks (s : State) : Nat := min (4096 / s.nvme.blockSize.toNat) s.ctx.blocksLeft.toNat

/-- The length of chunk `ctx.chunk_idx` of a data phase (rules R279, R418). -/
def chunkLen (c : Ctx) : Nat := min 4096 (c.cmdLen.toNat - 4096 * c.chunkIdx)

/-- `read_next_chunk` (rule R282). -/
def readNextChunk (s : State) : State :=
  if s.ctx.blocksLeft = 0 then finish 0 s
  else callSubmit
    (encode (.nvmeRead 0 Config.nsid Config.stagingPcieAddr s.ctx.lba (BitVec.ofNat 16 (chunkBlocks s) - 1))) .ctx
    { s with ctx := { s.ctx with state := .executing } }

/-- `write_next_chunk` (rule R283). -/
def writeNextChunk (s : State) : State :=
  let rest := s.ctx.cmdLen - s.ctx.actual.setWidth 64
  if rest = 0 then finish 0 s
  else
    let t := armOut (dataArm s (.data (min 4096 rest.toNat))) s
    { t with ctx := { t.ctx with state := .awaitingData } }

/-! ## The frame of a CDB command (rule R276) -/

/-- After `Decode` gave `(dir, len)`: the phase check, then the command's body in `EXECUTING` (rules R276, R277). -/
def runCdb (dir : Dir) (len : BitVec 64) (body : State → State) (s : State) : State :=
  let t := { s with ctx := { s.ctx with cmdDir := dir, cmdLen := len } }
  if phaseErr t.ctx then phaseError t else body { t with ctx := { t.ctx with state := .executing } }

/-- `RECEIVING_CBW` accepted: the context is created (rule R275), and bulk-OUT is no longer armed for a CBW while it lives
(rule R488, notes/assumptions/45.md). -/
def latchCbw (b : Bytes) (s : State) : State :=
  let len := getLE32 b 8
  let cblen := byteAt b 14
  { s with
    ctx := { s.ctx with
      tag := getLE32 b 4
      expectedLen := len
      lun := (byteAt b 13).extractLsb' 0 4
      cblen := cblen
      cdb := padTo 16 ((b.drop 15).take cblen.toNat)
      direction := if len = 0 then .dirNone else if (byteAt b 12).getLsbD 7 then .dirIn else .dirOut
      actual := 0, status := 0, chunkIdx := 0, afterCsw := .nothing, state := .receivingCbw }
    usb := { s.usb with outArmed := .none, outTaken := 0 } }

/-- The three checks of rule R271. -/
def validCbw (b : Bytes) (len : Nat) : Bool :=
  len == 31 && getLE32 b 0 == 0x43425355 && decide (1 ≤ (byteAt b 14).toNat) && decide ((byteAt b 14).toNat ≤ 16)

end Sys2Proof.Machine
end

