-- ==== Sys2Proof/Machine/Registers.lean ====
section
/-! DEFINITION. The register bus: RegRead, RegWrite, RegRmw and the windows the roles are (rules R22 to R29, R160 to R166). -/

namespace Sys2Proof.Machine

/-- A named bit of a role register, at its place (rules R23 to R25 give no positions). -/
def bitByte (b : RoleBit) (v : Bool) : Byte := if v then oneHot (Config.bitPos b).val else 0

/-- A written byte has the named bit set. -/
def hasBit (b : RoleBit) (v : Byte) : Bool := v.getLsbD (Config.bitPos b).val

/-- One flag as a register that uses one bit (rule R27). -/
def boolByte (v : Bool) : Byte := if v then 1 else 0

/-- One byte of an integer register: a register is 8 bits wide, so a role that stands for an abstract integer shows one
byte of it at its address (rule R20, notes/assumptions/12.md). -/
def wideByte (r : Role) (n : Nat) : Byte := BitVec.ofNat 8 (n / 256 ^ Config.wideIndex r)

/-- The integer after that byte is written. -/
def wideWrite (r : Role) (n : Nat) (v : Byte) : Nat :=
  256 ^ Config.wideIndex r * (256 * (n / 256 ^ (Config.wideIndex r + 1)) + v.toNat) + n % 256 ^ Config.wideIndex r

/-- The two halt bits of `USB_EP_STALL`. -/
def haltMask : Byte := bitByte .haltIn true ||| bitByte .haltOut true

/-- `role_value`: what a bus read of a role returns (rules R23 to R29, R160). -/
def roleValue (s : State) : Role → Byte
  | .usbEpEvent | .usbEpClear => s.ev.epMask
  | .usbCtlPhase =>
    bitByte .ctlSetup s.ev.ctlSetup ||| bitByte .ctlData s.ev.ctlData ||| bitByte .ctlStatus s.ev.ctlStatus
  | .usbCtlAck => Config.wseValue .usbCtlAck
  | .usbConnect => Config.connectValue s.usb.connected
  | .usbEpStall => (s.spare.epStall &&& ~~~haltMask) ||| (bitByte .haltIn s.usb.haltIn ||| bitByte .haltOut s.usb.haltOut)
  | .sysEvent =>
    bitByte .linkChange s.ev.sysLinkChange ||| bitByte .cqeReady s.ev.sysCqeReady |||
      bitByte .sysTimer s.ev.sysTimer ||| bitByte .error s.ev.sysError
  | .phyStatus => bitByte .phyRdyA s.phy.rdyA ||| bitByte .phyRdyB s.phy.rdyB
  | .tunByteEn => s.phy.tunByteEn
  | .tunLaneMap => wideByte .tunLaneMap s.phy.tunLaneMap
  | .tunCtrl => s.phy.tunCtrl
  | .tunDone => bitByte .tunComplete s.phy.tunComplete
  | .linkReset => Config.wseValue .linkReset
  | .cpuReset => Config.wseValue .cpuReset
  | .sqTailDb .admin => wideByte (.sqTailDb .admin) s.nvme.adminQ.sqTailDb
  | .sqTailDb .io => wideByte (.sqTailDb .io) s.nvme.ioQ.sqTailDb
  | .cqHeadDb .admin => wideByte (.cqHeadDb .admin) s.nvme.adminQ.cqHeadDb
  | .cqHeadDb .io => wideByte (.cqHeadDb .io) s.nvme.ioQ.cqHeadDb
  | .dmaDir => (s.spare.dmaDir &&& 0xFE) ||| boolByte (s.dma.dir == .tx)
  | .dmaLen => wideByte .dmaLen s.dma.len
  | .dmaPtr => wideByte .dmaPtr s.dma.ptr
  | .dmaStart => Config.wseValue .dmaStart
  | .dmaDone => boolByte s.dma.done

/-- A byte of the fault-ring window (rule R143). -/
def ringByte (r : FaultRing) (off : Nat) : Byte :=
  if off = 0 then BitVec.ofNat 8 r.wr
  else if off = 1 then BitVec.ofNat 8 (min r.count 255)
  else if off < 8 then 0
  else match r.recs[(off - 8) / 8]? with
    | none => 0
    | some x => byteAt ([linkCode x.state, faultCode x.code, 0, 0] ++ putLE32 x.elapsed) ((off - 8) % 8)

/-- The byte a bus read returns (rule R160). -/
def regReadVal (a : BitVec 16) (s : State) : Byte :=
  match target a with
  | .role r => roleValue s r
  | .ring off => ringByte s.faults off
  | .plain =>
    match Config.policy a with
    | .rw | .ro | .w1c | .wse | .rse => s.byte .reg a.toNat
    | .unmapped => Config.unmappedByte s.free

/-- What a bus read does to the backing array: only a read-side-effect address changes (rules R88, R160). -/
def regReadMem (a : BitVec 16) (s : State) : Memory :=
  match target a with
  | .role _ | .ring _ => s.mem
  | .plain =>
    match Config.policy a with
    | .rse => s.mem.write .reg a.toNat (Config.rseNext a (s.byte .reg a.toNat))
    | .rw | .ro | .w1c | .wse | .unmapped => s.mem

/-- The state after a bus read: a free value has been drawn (rule R160, U1). -/
def regReadState (a : BitVec 16) (s : State) : State := { s with mem := regReadMem a s, free := s.free + 1 }

/-- A bus write to an address of the backing array (rules R22, R161). -/
def plainWriteMem (a : BitVec 16) (v : Byte) (s : State) : Memory :=
  match Config.policy a with
  | .rw => s.mem.write .reg a.toNat v
  | .ro | .unmapped => s.mem
  | .w1c => s.mem.write .reg a.toNat (s.byte .reg a.toNat &&& ~~~v)
  | .wse | .rse => s.mem.write .reg a.toNat (Config.wseNext a (s.byte .reg a.toNat) v)

/-- A write to the queue pair's registers. -/
def Nvme.queue (n : Nvme) : QueueId → QueuePair
  | .admin => n.adminQ
  | .io => n.ioQ

/-- Replaces a queue pair. -/
def Nvme.setQueue (n : Nvme) (q : QueueId) (p : QueuePair) : Nvme :=
  match q with
  | .admin => { n with adminQ := p }
  | .io => { n with ioQ := p }

/-- A new halt level of an endpoint: setting it halts (rule R250), clearing it clears it. -/
def setHaltIn (h : Bool) (s : State) : State := if h then haltIn s else { s with usb := { s.usb with haltIn := false } }
def setHaltOut (h : Bool) (s : State) : State := if h then haltOut s else { s with usb := { s.usb with haltOut := false } }

/-- The action of a bus write to a role (rules R22 to R29, R161, R165, R471). A write to `USB_CTL_ACK` of a byte that is no
ack value does nothing, a DESIGN CHOICE (notes/assumptions/14.md). -/
def roleWrite (v : Byte) (s : State) : Role → State
  | .usbEpEvent | .usbCtlPhase | .phyStatus | .tunDone | .dmaDone => s
  | .usbEpClear => { s with ev := { s.ev with epMask := s.ev.epMask &&& ~~~v } }
  | .usbCtlAck =>
    { s with ev := { s.ev with
        ctlSetup := s.ev.ctlSetup && v != Config.ackByte .setup
        ctlData := s.ev.ctlData && v != Config.ackByte .data
        ctlStatus := s.ev.ctlStatus && v != Config.ackByte .status } }
  | .usbConnect => { s with usb := { s.usb with connected := Config.connectAction v s.usb.connected } }
  | .usbEpStall =>
    setHaltOut (hasBit .haltOut v) (setHaltIn (hasBit .haltIn v) { s with spare := { s.spare with epStall := v } })
  | .sysEvent =>
    { s with ev := { s.ev with
        sysLinkChange := s.ev.sysLinkChange && !hasBit .linkChange v
        sysCqeReady := s.ev.sysCqeReady && !hasBit .cqeReady v
        sysTimer := s.ev.sysTimer && !hasBit .sysTimer v
        sysError := s.ev.sysError && !hasBit .error v } }
  | .tunByteEn => { s with phy := { s.phy with tunByteEn := v } }
  | .tunLaneMap => { s with phy := { s.phy with tunLaneMap := wideWrite .tunLaneMap s.phy.tunLaneMap v } }
  | .tunCtrl => { s with phy := { s.phy with tunCtrl := v } }
  | .linkReset => { s with phy := { s.phy with linkReset := v } }
  | .cpuReset => if v = Config.resetMagic then powerOn s else s
  | .sqTailDb q =>
    { s with nvme := s.nvme.setQueue q { s.nvme.queue q with
        sqTailDb := wideWrite (.sqTailDb q) (s.nvme.queue q).sqTailDb v } }
  | .cqHeadDb q =>
    { s with nvme := s.nvme.setQueue q { s.nvme.queue q with
        cqHeadDb := wideWrite (.cqHeadDb q) (s.nvme.queue q).cqHeadDb v } }
  | .dmaDir =>
    { s with dma := { s.dma with dir := if v.getLsbD 0 then .tx else .rx }, spare := { s.spare with dmaDir := v } }
  | .dmaLen => { s with dma := { s.dma with len := wideWrite .dmaLen s.dma.len v } }
  | .dmaPtr => { s with dma := { s.dma with ptr := wideWrite .dmaPtr s.dma.ptr v } }
  | .dmaStart => if v.getLsbD 0 then { s with dma := { s.dma with busy := true, done := false, moved := 0 } } else s

/-- `RegWrite(a, v)` (rule R161). -/
def regWrite (a : BitVec 16) (v : Byte) (s : State) : State :=
  match target a with
  | .role r => roleWrite v s r
  | .ring _ => s
  | .plain => { s with mem := plainWriteMem a v s }

/-- Hardware gives a register the value `v`: a byte of the backing array or a tunnel register; the other roles change with
the record they are windows on (notes/assumptions/43.md). -/
def hwChange (a : BitVec 16) (v : Byte) (s : State) : State :=
  match target a with
  | .role .tunByteEn => { s with phy := { s.phy with tunByteEn := v } }
  | .role .tunCtrl => { s with phy := { s.phy with tunCtrl := v } }
  | .role .tunLaneMap => { s with phy := { s.phy with tunLaneMap := wideWrite .tunLaneMap s.phy.tunLaneMap v } }
  | .role _ | .ring _ => s
  | .plain => hwStore a v s

/-- `RegRmw(a, mask, set)`: a read, then a write, and the hardware may change the register between them
(rules R87, R162, R163, R485). -/
def regRmw (a : BitVec 16) (mask set : Byte) (s : State) : State :=
  regWrite a (rmwByte (regReadVal a s) mask set) (hwBetween (hwChange a) (regReadState a s))

/-- The write resets the block, so nothing of the old run survives it (rule R471). -/
def writeResets (a : BitVec 16) (v : Byte) : Bool := target a == .role .cpuReset && v == Config.resetMagic

/-- One byte of 0xE4: `STAGING[o] <- RegRead(a)` (rule R352). -/
def regToStaging (a : BitVec 16) (o : Nat) (s : State) : State :=
  { s with mem := (regReadMem a s).write .staging o (regReadVal a s), free := s.free + 1 }

/-- `n` bytes of 0xE4 at ascending addresses, each read exactly once (rules R89, R352). -/
def regBlock : Nat → BitVec 16 → Nat → State → State
  | 0, _, _, s => s
  | n + 1, a, o, s => regBlock n (a + 1) (o + 1) (regToStaging a o s)

/-- `TUN_CTRL` takes a value. -/
def setTunCtrl (v : Byte) (s : State) : State := { s with phy := { s.phy with tunCtrl := v } }

/-- The entry actions of `LINK_TRAIN`, in this order (rule R198); the last is a read-modify-write (rule R163). -/
def trainTunnel (s : State) : State :=
  let t := { s with phy := { s.phy with tunByteEn := 0xFF, tunLaneMap := Config.laneMap } }
  setTunCtrl (rmwByte s.phy.tunCtrl (bitByte .bridgeEn true) (bitByte .bridgeEn true)) (hwBetween setTunCtrl t)

end Sys2Proof.Machine
end

