-- ==== Sys2Proof/Machine/Agents.lean ====
section
/-! DEFINITION. The steps of the agents other than the sequencer (rules R247, R248, R412, R423, R455). -/

namespace Sys2Proof.Machine

/-! ## The host and the USB hardware -/

/-- A setup packet arrives: 8 bytes, and endpoint 0 no longer stalls (rules R230, R236). A data or status flag still pending is
an earlier transfer's. -/
def takeSetup (pkt : Bytes) (s : State) : State :=
  if s.usb.connected = true ∧ pkt.length = 8 then
    { s with ctl := { s.ctl with setup := pkt, dataOwn := false, statusOwn := false }, ev := { s.ev with ctlSetup := true },
             usb := { s.usb with ep0Stalled := false } }
  else s

/-- The hardware raises the data flag, or the status flag, of the transfer in progress, but for a transfer that endpoint 0
stalls (rule R236); on a flag still pending it does nothing (rule R440). -/
def raiseCtlData (s : State) : State :=
  if s.usb.ep0Stalled = true ∨ s.ev.ctlData = true then s
  else { s with ev := { s.ev with ctlData := true }, ctl := { s.ctl with dataOwn := true } }
def raiseCtlStatus (s : State) : State :=
  if s.usb.ep0Stalled = true ∨ s.ev.ctlStatus = true then s
  else { s with ev := { s.ev with ctlStatus := true }, ctl := { s.ctl with statusOwn := true } }

/-- Sets bit `i` of `ev.ep_mask`; on a bit still pending it does nothing. -/
def setEpBit (i : Nat) (s : State) : State := { s with ev := { s.ev with epMask := s.ev.epMask ||| oneHot i } }

/-- Bit `i` of `ev.ep_mask` waits for its clear-mask write, so the hardware does not set it again (rules R175, R493). -/
def epPending (i : Nat) (s : State) : Bool := s.ev.epMask.getLsbD i

/-- A bulk-OUT transfer is offered (rules R247, R249). One whose event is still pending is answered NAK (rule R493), and so
is a CBW while a context is alive (rule R488). -/
def offerBulkOut (b : Bytes) (s : State) : State :=
  if s.usb.connected = false ∨ s.usb.haltOut = true ∨ s.usb.config = 0 then s
  else match s.usb.outArmed with
    | .none => s
    | .cbw =>
      if epPending 2 s ∨ s.ctx.state ≠ .done then s
      else
        let t := storeBytes .ctrlbuf 0 (b.take 31) s
        setEpBit 2 { t with ctrlLen := b.length, usb := { t.usb with outArmed := .none } }
    | .data n =>
      let k := b.take (n - s.usb.outTaken)
      let t := { s with usbOut := s.usbOut ++ k, usb := { s.usb with outTaken := s.usb.outTaken + k.length } }
      if s.usb.outTaken = 0 ∧ k ≠ [] then (if epPending 2 s then s else setEpBit 2 t) else t
    | .discard n =>
      { s with usb := { s.usb with outTaken := s.usb.outTaken + (b.take (n - s.usb.outTaken)).length } }

/-- Up to `n` bytes off the front transfer. -/
def takeFront (n : Nat) : List Bytes → List Bytes
  | [] => []
  | t :: rest => if t.length ≤ n then rest else t.drop n :: rest

/-- The host takes bytes of bulk-IN (rules R248, R249). A take whose event is still pending is answered NAK (rule R493). -/
def takeBulkIn (n : Nat) (s : State) : State :=
  if s.usb.connected = false ∨ s.usb.haltIn = true ∨ s.usb.config = 0 ∨ s.usb.inBusy = .none ∨ s.usbIn = [] then s
  else
    let t := { s with usbIn := takeFront n s.usbIn }
    if t.usbIn = [] then (if epPending 1 s then s else setEpBit 1 t) else t

/-! ## The DMA engine (rule R412) -/

/-- A transfer the engine runs (rule R412). With a length of 0 or above 4096, or a range past the staging buffer (rule R413, U4),
it does nothing; whether the endpoint is armed (U4) it does not ask. Both are DESIGN CHOICES (notes/assumptions/29.md). -/
def dmaRuns (d : Dma) : Bool :=
  d.busy && decide (1 ≤ d.len) && decide (d.len ≤ Config.stagingSize) && decide (d.ptr + d.len ≤ Config.stagingSize)

/-- The transfer is over when every byte has moved (rule R412). -/
def dmaCheckDone (s : State) : State :=
  if s.dma.moved = s.dma.len then { s with dma := { s.dma with busy := false, done := true } } else s

/-- One step of up to `k` bytes. -/
def dmaStep (k : Nat) (s : State) : State :=
  if dmaRuns s.dma then
    match s.dma.dir with
    | .rx =>
      let b := s.usbOut.take (min k (s.dma.len - s.dma.moved))
      if b = [] then s
      else
        let t := storeBytes .staging (s.dma.ptr + s.dma.moved) b s
        dmaCheckDone { t with usbOut := s.usbOut.drop b.length, dma := { s.dma with moved := s.dma.moved + b.length } }
    | .tx =>
      dmaCheckDone { s with usbIn := s.usbIn ++ [s.bytes .staging s.dma.ptr s.dma.len], dma := { s.dma with moved := s.dma.len } }
  else s

/-! ## The NVMe controller (rules R423, R425) -/

/-- The offset of a PCIe address in a window of `size` bytes at `base`. -/
def windowOff (base addr : BitVec 64) (size : Nat) : Option Nat :=
  if (addr - base).toNat < size then some (addr - base).toNat else none

/-- The byte of block memory behind a PCIe address, if any (rule R423). -/
def translate (addr : BitVec 64) : Option (Space × Nat) :=
  match windowOff Config.stagingPcieAddr addr Config.stagingSize with
  | some o => some (.staging, o)
  | none => match windowOff (Config.sqPcieAddr .admin) addr (64 * Config.queueDepth) with
    | some o => some (.sq .admin, o)
    | none => match windowOff (Config.sqPcieAddr .io) addr (64 * Config.queueDepth) with
      | some o => some (.sq .io, o)
      | none => match windowOff (Config.cqPcieAddr .admin) addr (16 * Config.queueDepth) with
        | some o => some (.cq .admin, o)
        | none => match windowOff (Config.cqPcieAddr .io) addr (16 * Config.queueDepth) with
          | some o => some (.cq .io, o)
          | none => none

/-- A PCIe write of a byte string, byte by byte; a byte outside the windows has no effect (rule R425, U3). -/
def pcieWrite (addr : BitVec 64) : Bytes → Memory → Memory
  | [], m => m
  | b :: rest, m =>
    pcieWrite (addr + 1) rest (match translate addr with
      | some (sp, o) => m.write sp o b
      | none => m)

/-! ## One step of an agent -/

/-- A flag that only a connected host can raise (rule R257). -/
def whenConnected (f : State → State) (s : State) : State := if s.usb.connected then f s else s

/-- What an input does; the sequencer's turn does nothing here. -/
def agentStep (i : Input) (s : State) : State :=
  match i with
  | .seq => s
  | .setup pkt => takeSetup pkt s
  | .ctlData => whenConnected raiseCtlData s
  | .ctlStatus => whenConnected raiseCtlStatus s
  | .busReset => whenConnected (fun t => { t with ev := { t.ev with usbBusReset := true } }) s
  | .suspend => whenConnected (fun t => { t with ev := { t.ev with usbSuspend := true } }) s
  | .resume => whenConnected (fun t => { t with ev := { t.ev with usbResume := true } }) s
  | .bulkOut b => offerBulkOut b s
  | .bulkIn n => takeBulkIn n s
  | .epEvent i => setEpBit i.val s
  | .dma k => dmaStep k s
  | .pcieWrite addr b => { s with mem := pcieWrite addr b s.mem }
  | .cqeReady => { s with ev := { s.ev with sysCqeReady := true } }
  | .phyBits a b => { s with phy := { s.phy with rdyA := a, rdyB := b } }
  | .tunComplete c => { s with phy := { s.phy with tunComplete := c } }
  | .linkChange up => { s with ev := { s.ev with sysLinkChange := true, linkIsUp := up } }
  | .hwError => { s with ev := { s.ev with sysError := true } }
  | .regChange a v => hwChange a v s
  | .rmwRace v => { s with race := s.race ++ [v] }
  | .clocks on => { s with phy := { s.phy with clocksOn := on } }
  | .tick n => { s with now := s.now + n, ev := { s.ev with tickPending := true } }
  | .sysTimer => { s with ev := { s.ev with sysTimer := true } }
  | .flashDriver ok => { s with flashOk := ok }
  | .resetRequest => { s with ev := { s.ev with resetRequested := true } }
  | .powerOn => powerOn s

end Sys2Proof.Machine
end

