-- ==== Sys2Proof/Machine/Operands.lean ====
section
/-! DEFINITION. Operand forms and response bytes: transfer lengths, address and block ranges, the payloads the block builds
(rules R142, R243, R312, R314, R315, R319, R324) and the descriptors (rules R133 to R138). -/

namespace Sys2Proof.Machine

/-! ## Lengths and ranges -/

/-- `min(full, alloc)` (rule R324). -/
def cutLen (full : Nat) (alloc : Nat) : BitVec 64 := BitVec.ofNat 64 (min full alloc)

/-- The 16 low bits of a 24-bit register address (rule R78). -/
def regAddr (addr : BitVec 24) : BitVec 16 := addr.extractLsb' 0 16

/-- `size > 64`, or an address range that leaves the register space (rules R78, R343, R352). -/
def badRegRange (size : BitVec 8) (addr : BitVec 24) : Bool :=
  decide (Config.xdataReadMax < size.toNat) || decide (0xFFFF < addr.toNat) || decide (0x10000 < addr.toNat + size.toNat)

/-- `lba + blocks > nvme.ns_size`, computed without wrap (rule R316). -/
def lbaOutOfRange (lba : BitVec 32) (blocks : BitVec 16) (s : State) : Bool :=
  decide (s.nvme.nsSize.toNat < lba.toNat + blocks.toNat)

/-- `blocks * nvme.block_size` (rule R316). -/
def blocksLen (blocks : BitVec 16) (s : State) : BitVec 64 := blocks.setWidth 64 * s.nvme.blockSize.setWidth 64

/-- The two firmware parts (rule R348). -/
inductive FwPart where
  | part1 | part2
deriving DecidableEq, Repr

/-- `base` of a part (rules R7, R348). -/
def FwPart.base : FwPart → Nat
  | .part1 => Config.fwPart1Base
  | .part2 => Config.fwPart2Base

/-- `lim` of a part (rule R348). -/
def FwPart.lim : FwPart → Nat
  | .part1 => Config.fwPart2Base
  | .part2 => Config.flashSize

/-- `fw.cursor[p]` (rule R50). -/
def Fw.cursor (f : Fw) : FwPart → BitVec 32
  | .part1 => f.cursor1
  | .part2 => f.cursor2

/-- The bytes of a part written: the cursor moves on (rule R348). -/
def Fw.advance (f : Fw) (p : FwPart) (n : Nat) : Fw :=
  match p with
  | .part1 => { f with cursor1 := f.cursor1 + BitVec.ofNat 32 n, staged := true, flashValid := false }
  | .part2 => { f with cursor2 := f.cursor2 + BitVec.ofNat 32 n, staged := true, flashValid := false }

/-! ## Payloads -/

/-- The 18 bytes of fixed-format sense data (rule R142). -/
def senseBytes (x : Sense) : Bytes :=
  [if x.infoValid then 0xF0 else 0x70, 0, x.key.setWidth 8] ++ putBE32 x.info
    ++ [0x0A, 0, 0, 0, 0, x.asc, x.ascq, 0, 0, 0, 0]

/-- The 36 INQUIRY bytes (rule R312). -/
def inquiryBytes : Bytes :=
  [0x00, 0x00, 0x06, 0x02, 0x1F, 0x00, 0x00, 0x00,
   0x41, 0x73, 0x6D, 0x65, 0x64, 0x69, 0x61, 0x20,
   0x41, 0x53, 0x4D, 0x32, 0x34, 0x36, 0x34, 0x50, 0x44, 0x20, 0x20, 0x20, 0x20, 0x20, 0x20, 0x20] ++ Config.inqRev

/-- The 24 MODE SENSE bytes (rule R314). -/
def modeSenseBytes : Bytes :=
  [0x17, 0x00, 0x00, 0x00, 0x08, 0x12, 0x04, 0x00, 0x00, 0x00, 0x00, 0x00,
   0x00, 0x00, 0x00, 0x00, 0x00, 0x00, 0x00, 0x00, 0x00, 0x00, 0x00, 0x00]

/-- The 8 READ CAPACITY bytes (rule R315). -/
def capacityBytes (nsSize : BitVec 64) (blockSize : BitVec 32) : Bytes :=
  putBE32 (BitVec.ofNat 32 (min (nsSize - 1).toNat 0xFFFFFFFF)) ++ putBE32 blockSize

/-- The 16 REPORT LUNS bytes (rule R319). -/
def lunBytes : Bytes :=
  [0x00, 0x00, 0x00, 0x08, 0x00, 0x00, 0x00, 0x00, 0x00, 0x00, 0x00, 0x00, 0x00, 0x00, 0x00, 0x00]

/-- The two GET_STATUS bytes (rule R243). -/
def statusBytes (halted : Bool) : Bytes := [if halted then 1 else 0, 0]

/-! ## Descriptors (rules R133 to R138, R237) -/

def deviceDescriptor : Bytes :=
  [0x12, 0x01, 0x10, 0x02, 0x00, 0x00, 0x00, 0x40, 0x4C, 0x17, 0x62, 0x24, 0x00, 0x01, 0x02, 0x03, 0x01, 0x01]

def configDescriptor : Bytes :=
  [0x09, 0x02, 0x20, 0x00, 0x01, 0x01, 0x00, 0x80, 0xFA,
   0x09, 0x04, 0x00, 0x00, 0x02, 0x08, 0x06, 0x50, 0x00,
   0x07, 0x05, 0x81, 0x02, 0x00, 0x02, 0x00,
   0x07, 0x05, 0x02, 0x02, 0x00, 0x02, 0x00]

def stringDescriptor0 : Bytes := [0x04, 0x03, 0x09, 0x04]

/-- Index 1, serial `v00000000000`. -/
def stringDescriptor1 : Bytes :=
  [0x1A, 0x03, 0x76, 0x00, 0x30, 0x00, 0x30, 0x00, 0x30, 0x00, 0x30, 0x00, 0x30, 0x00, 0x30, 0x00, 0x30, 0x00,
   0x30, 0x00, 0x30, 0x00, 0x30, 0x00, 0x30, 0x00]

/-- Index 2, manufacturer `Asmedia`. -/
def stringDescriptor2 : Bytes :=
  [0x10, 0x03, 0x41, 0x00, 0x73, 0x00, 0x6D, 0x00, 0x65, 0x00, 0x64, 0x00, 0x69, 0x00, 0x61, 0x00]

/-- Index 3, product `ASM2464PD`. -/
def stringDescriptor3 : Bytes :=
  [0x14, 0x03, 0x41, 0x00, 0x53, 0x00, 0x4D, 0x00, 0x32, 0x00, 0x34, 0x00, 0x36, 0x00, 0x34, 0x00, 0x50, 0x00,
   0x44, 0x00]

/-- The BOS descriptor: 5 header bytes and the 17 bytes of `BOS_BODY`, of which only the first three of each capability
are fixed (rules R136, R138). -/
def bosDescriptor : Bytes :=
  [0x05, 0x0F, 0x16, 0x00, 0x02] ++ ([0x07, 0x10, 0x02] ++ putLE32 Config.bosUsb2Tail)
    ++ ([0x0A, 0x10, 0x03] ++ (putBE24 (Config.bosSuperSpeedTail.extractLsb' 32 24)
      ++ putBE32 (Config.bosSuperSpeedTail.extractLsb' 0 32)))

/-- The reply of GET_DESCRIPTOR, none where endpoint 0 stalls (rule R237). -/
def descriptorReply (type index : Byte) : Option Bytes :=
  if type = 1 ∧ index = 0 then some deviceDescriptor
  else if type = 2 ∧ index = 0 then some configDescriptor
  else if type = 3 ∧ index = 0 then some stringDescriptor0
  else if type = 3 ∧ index = 1 then some stringDescriptor1
  else if type = 3 ∧ index = 2 then some stringDescriptor2
  else if type = 3 ∧ index = 3 then some stringDescriptor3
  else if type = 15 ∧ index = 0 then some bosDescriptor
  else none

/-! ## The admin command of 0xE6 (rules R129, R355) -/

/-- `len` of `e6_params`: at most 4096, and 4096 for Identify (rule R355). -/
def e6Len (opc : Byte) (rest : BitVec 112) : BitVec 64 :=
  if opc = 0x06 then 4096 else BitVec.ofNat 64 (Config.e6Len rest).val

end Sys2Proof.Machine
end

