-- ==== Sys2Proof/Machine/Flash.lean ====
section
/-! DEFINITION. The flash driver's program step and the two commands that use it (rules R346, R345, R348). -/

namespace Sys2Proof.Machine

/-- The first byte of the sectors a range of bytes touches (rule R84). -/
def sectorLo (a : Nat) : Nat := Config.flashSector * (a / Config.flashSector)

/-- One past the last byte of the sectors that `n` bytes from `a` touch, cut to the flash (rules R48, R84, R346). -/
def sectorHi (a n : Nat) : Nat :=
  min Config.flashSize (Config.flashSector * ((a + n - 1) / Config.flashSector + 1))

/-- The program step as pieces none of which crosses a page boundary (rules R7, R84, R346), at most `fuel` of them. -/
def programPages : (fuel : Nat) → Memory → (a : Nat) → Bytes → Memory
  | 0, m, _, _ => m
  | fuel + 1, m, a, data =>
    if data = [] then m
    else
      let k := Config.flashPage - a % Config.flashPage
      programPages fuel (m.writeBytes .flash a (data.take k)) (a + k) (data.drop k)

/-- `FlashWrite(a, data)` (rule R346): the touched sectors erased where the collateral is, then the data page by page. -/
def flashProgram (a : Nat) (data : Bytes) (s : State) : State :=
  let erased := if Config.flashCollateralErased then
      s.mem.fill .flash (sectorLo a) (fun _ => 0xFF) (sectorHi a data.length - sectorLo a)
    else s.mem
  { s with mem := programPages data.length erased a data }

/-- A program that the driver fails: the range, and its sectors where they are erased, hold free values (rule R346, U6). -/
def flashGarbage (a n : Nat) (s : State) : State :=
  { s with
    mem := if Config.flashCollateralErased then
        s.mem.fill .flash (sectorLo a) (Config.flashFailByte s.free) (sectorHi a n - sectorLo a)
      else s.mem.fill .flash a (Config.flashFailByte s.free) n
    free := s.free + 1 }

/-- The next chunk of a data-OUT phase after a chunk that was executed (rule R283). -/
def nextOutChunk (s : State) : State := writeNextChunk { s with ctx := { s.ctx with chunkIdx := s.ctx.chunkIdx + 1 } }

/-- A flash chunk of `n` bytes at `a`: programmed from `STAGING`, then `after` and the next chunk; a failed program is
`VendorError` (rules R283, R346). -/
def flashChunk (a n : Nat) (after : State → State) (s : State) : Host.Outcome State Fault Refusal :=
  if Config.flashSize < a + n then .fault .flashOutOfRange
  else if s.flashOk then .next (nextOutChunk (after (flashProgram a (s.bytes .staging 0 n) s)))
  else .next (vendorError (flashGarbage a n s))

/-- `ChunkExec(n)` of 0xE3 (rule R348). -/
def streamChunk (p : FwPart) (n : Nat) (s : State) : Host.Outcome State Fault Refusal :=
  flashChunk (p.base + (s.fw.cursor p).toNat) n (fun t => { t with fw := t.fw.advance p n }) s

/-- `ChunkExec(n)` of WRITE(10) (rule R317). -/
def writeChunk (n : Nat) (s : State) : State :=
  callSubmit (encode (.nvmeWrite 0 Config.nsid Config.stagingPcieAddr s.ctx.lba
    (BitVec.ofNat 16 (n / s.nvme.blockSize.toNat) - 1))) .ctx s

/-- `ChunkExec(n)` by the command of the context (rules R283, R317, R345, R348). -/
def chunkExec (n : Nat) (s : State) : Host.Outcome State Fault Refusal :=
  match decodeCdb s.ctx.cdb with
  | .write10 _ _ => .next (writeChunk n s)
  | .vendorE1_50 blockno => flashChunk (128 * blockno.toNat) n id s
  | .vendorE3_50 _ => streamChunk .part1 n s
  | .vendorE3_D0 _ => streamChunk .part2 n s
  | _ => .next s

end Sys2Proof.Machine
end

