-- ==== Sys2Proof/Machine/Nvme.lean ====
section
/-! DEFINITION. The NVMe engine: slots, command ids, issue, the bring-up's failure, and the meanings of the submission
entries, each of which is `Submit` of its command (47_nvme_engine.md). -/

namespace Sys2Proof.Machine

/-- The pool's slot `i`. -/
def Nvme.slot (n : Nvme) (i : Nat) : Slot := n.slots.getD i .free

/-- Replaces slot `i`. -/
def setSlot (i : Nat) (x : Slot) (s : State) : State := { s with nvme := { s.nvme with slots := s.nvme.slots.set i x } }

/-- The ids held by the slots in use other than slot `i` (rule R373). -/
def idsInUse (slots : List Slot) (i : Nat) : List (BitVec 16) := ((slots.set i .free).filter (·.inUse)).map (·.cid)

/-- `nvme.next_cid` with the ids in use skipped; more ids than slots are tried, so a free one is found (rules R373, R377). -/
def freeCid (used : List (BitVec 16)) : Nat → BitVec 16 → BitVec 16
  | 0, c => c
  | n + 1, c => if used.contains c then freeCid used n (c + 1) else c

/-- The next index of a queue (rules R371, R373). -/
def nextIndex (i : Fin Config.queueDepth) : Fin Config.queueDepth :=
  ⟨(i.val + 1) % Config.queueDepth, Nat.mod_lt _ Config.queueDepth_pos⟩

/-- The kept entry with its `CID` bytes replaced (rule R373). -/
def withCid (e : Bytes) (c : BitVec 16) : Bytes := e.take 2 ++ putLE16 c ++ e.drop 4

/-- `issue(s)` of slot `i`: a fresh id, the whole entry at the tail, then the tail doorbell (rules R92, R373). -/
def issue (i : Nat) (s : State) : State :=
  let sl := s.nvme.slot i
  let c := freeCid (idsInUse s.nvme.slots i) (s.nvme.slots.length + 1) s.nvme.nextCid
  let e := withCid sl.sqe c
  let p := s.nvme.queue sl.q
  let tail := nextIndex p.sqTail
  { s with
    mem := s.mem.writeBytes (.sq sl.q) (64 * p.sqTail.val) e
    nvme := { s.nvme.setQueue sl.q { p with sqTail := tail, sqTailDb := tail.val } with
      nextCid := c + 1
      slots := s.nvme.slots.set i { sl with cid := c, sqe := e, issuedAt := s.now } } }

/-- The free slot of lowest index (rule R372). -/
def freeSlot (s : State) : Option Nat := s.nvme.slots.findIdx? fun x => !x.inUse

/-- `fail` of the bring-up (rule R395). -/
def initFail (s : State) : State := appendFault .nvmeInitFailed { s with nvme := { s.nvme with init := .failed } }

/-- Who the command being issued is for; an entry that no `Submit` call placed has no owner. -/
def submitOwner (s : State) : Owner :=
  match s.seq.submit with
  | some r => r.owner
  | none => .none

/-- No slot is free (rule R372). -/
def noSlot (s : State) : Owner → State
  | .ctx => checkCondition senseNotReady s
  | .init => initFail s
  | .none => s

/-- `Submit(q, cmd, owner)` with the entry built (rule R373); the call is thereby made. -/
def submit (p : Packet) (s : State) : State :=
  match p with
  | .sqe q e =>
    let owner := submitOwner s
    let t := { s with seq := { s.seq with submit := none } }
    match freeSlot t with
    | none => noSlot t owner
    | some i =>
      issue i (setSlot i { t.nvme.slot i with inUse := true, q := q, owner := owner, retries := 0, sqe := e } t)
  | .cdb _ | .setup _ => s

/-! ## The meanings of the seven entries (rules R139, R140, R373): the id of a new entry is 0 until it is issued -/

/-- Identify (rules R140, R355, R395). -/
def execIdentify (_cid : BitVec 16) (nsid : BitVec 32) (prp1 : BitVec 64) (cdw10 cdw11 : BitVec 32) (s : State) :
    Host.Outcome State Fault Refusal :=
  .next (submit (encode (.identify 0 nsid prp1 cdw10 cdw11)) s)

/-- Create I/O CQ (rules R140, R395). -/
def execCreateIoCq (_cid : BitVec 16) (prp1 : BitVec 64) (cdw10 cdw11 : BitVec 32) (s : State) :
    Host.Outcome State Fault Refusal :=
  .next (submit (encode (.createIoCq 0 prp1 cdw10 cdw11)) s)

/-- Create I/O SQ (rules R140, R395). -/
def execCreateIoSq (_cid : BitVec 16) (prp1 : BitVec 64) (cdw10 cdw11 : BitVec 32) (s : State) :
    Host.Outcome State Fault Refusal :=
  .next (submit (encode (.createIoSq 0 prp1 cdw10 cdw11)) s)

/-- Get Log Page (rules R140, R397). -/
def execGetLogPage (_cid : BitVec 16) (nsid : BitVec 32) (prp1 : BitVec 64) (cdw10 cdw11 : BitVec 32) (s : State) :
    Host.Outcome State Fault Refusal :=
  .next (submit (encode (.getLogPage 0 nsid prp1 cdw10 cdw11)) s)

/-- Flush (rules R140, R318). -/
def execNvmeFlush (_cid : BitVec 16) (nsid : BitVec 32) (s : State) : Host.Outcome State Fault Refusal :=
  .next (submit (encode (.nvmeFlush 0 nsid)) s)

/-- Write (rules R140, R317). -/
def execNvmeWrite (_cid : BitVec 16) (nsid : BitVec 32) (prp1 slba : BitVec 64) (nlb : BitVec 16) (s : State) :
    Host.Outcome State Fault Refusal :=
  .next (submit (encode (.nvmeWrite 0 nsid prp1 slba nlb)) s)

/-- Read (rules R140, R316). -/
def execNvmeRead (_cid : BitVec 16) (nsid : BitVec 32) (prp1 slba : BitVec 64) (nlb : BitVec 16) (s : State) :
    Host.Outcome State Fault Refusal :=
  .next (submit (encode (.nvmeRead 0 nsid prp1 slba nlb)) s)

end Sys2Proof.Machine
end

