-- ==== Sys2Proof/Machine/Complete.lean ====
section
/-! DEFINITION. Completions, the bring-up sequence, the queue poll and the command time-out (47_nvme_engine.md). -/

namespace Sys2Proof.Machine

/-- A slot is freed (rules R383, R387, R392). -/
def release (i : Nat) (s : State) : State := setSlot i { s.nvme.slot i with inUse := false } s

/-! ## The bring-up (rule R395) -/

/-- The next bring-up step with its admin command submitted. -/
def initStep (st : InitStep) (cmd : Instr) (s : State) : State :=
  callSubmit (encode cmd) .init { s with nvme := { s.nvme with init := st } }

/-- `start` (rules R201, R395): Identify Controller. -/
def initStart (s : State) : State := initStep .idCtrl (.identify 0 0 Config.stagingPcieAddr 1 0) s

/-- NSZE of the Identify Namespace data in `STAGING`. -/
def identNsze (s : State) : BitVec 64 := getLE64 (s.bytes .staging 0 8) 0

/-- LBADS of the format in use (rule R395). -/
def identLbads (s : State) : Byte :=
  s.byte .staging (128 + 4 * ((s.byte .staging 26).extractLsb' 0 4).toNat + 2)

/-- `ID_NS ok`. -/
def initNamespace (s : State) : State :=
  if identNsze s = 0 ∨ (identLbads s ≠ 9 ∧ identLbads s ≠ 12) then initFail s
  else initStep .createCq
    (.createIoCq 0 (Config.cqPcieAddr .io) (BitVec.ofNat 16 (Config.queueDepth - 1) ++ (1#16)) 0x00000003)
    { s with nvme := { s.nvme with nsSize := identNsze s, blockSize := 1 <<< (identLbads s).toNat } }

/-- A bring-up command that ended with status 0. -/
def initOk (s : State) : State :=
  match s.nvme.init with
  | .idCtrl => initStep .idNs (.identify 0 Config.nsid Config.stagingPcieAddr 0 0) s
  | .idNs => initNamespace s
  | .createCq => initStep .createSq
      (.createIoSq 0 (Config.sqPcieAddr .io) (BitVec.ofNat 16 (Config.queueDepth - 1) ++ (1#16)) 0x00010001) s
  | .createSq => { s with nvme := { s.nvme with ioCreated := true, identified := true, init := .done } }
  | .idle | .done | .failed => s

/-! ## Delivery (rules R294, R383) -/

/-- The context's LBA and block count after a chunk of `n` bytes (rules R282, R317). -/
def advanceLba (n : Nat) (s : State) : State :=
  let nb := n / s.nvme.blockSize.toNat
  { s with ctx := { s.ctx with
      lba := s.ctx.lba + BitVec.ofNat 64 nb
      blocksLeft := s.ctx.blocksLeft - BitVec.ofNat 32 nb } }

/-- A final status for a command of the context, by the opcode in `ctx.cdb[0]` (rules R282, R294, R317, R318, R355). -/
def deliverCtx (st : BitVec 15) (s : State) : State :=
  let op := byteAt s.ctx.cdb 0
  if op = 0x28 then
    if st = 0 then sendChunk (chunkBlocks s * s.nvme.blockSize.toNat) s
    else checkCondition (senseOfStatus st (s.ctx.lba.setWidth 32)) s
  else if op = 0x2A then
    if st = 0 then nextOutChunk (advanceLba (chunkLen s.ctx) s)
    else checkCondition (senseOfStatus st (s.ctx.lba.setWidth 32)) s
  else if op = 0x35 then
    if st = 0 then finish 0 s else checkCondition (senseOfStatus st 0) s
  else if op = 0xE6 then
    if st = 0 then sendBuf s else checkCondition (senseOfStatus st 0) s
  else s

/-- `deliver(s, status)` for slot `i` (rule R383). -/
def deliver (i : Nat) (st : BitVec 15) (s : State) : State :=
  let t := release i s
  match (s.nvme.slot i).owner with
  | .ctx => deliverCtx st t
  | .init => if st = 0 then initOk t else initFail t
  | .none => t

/-- The last lines of rule R382: deliver, retry, or give up (rules R386, R387). -/
def settle (i : Nat) (st : BitVec 15) (s : State) : State :=
  let sl := s.nvme.slot i
  if st = 0 ∨ doNotRetry st = true ∨ sl.owner = .none then deliver i st s
  else if sl.retries < Config.nvmeRetryMax then issue i (setSlot i { sl with retries := sl.retries + 1 } s)
  else match sl.owner with
    | .ctx => raiseFault .nvmeRetryExhausted (release i s)
    | .init | .none => deliver i st s

/-- The slot in use on queue `q` that holds `cid` (rules R382, R384). -/
def findSlot (q : QueueId) (cid : BitVec 16) (s : State) : Option Nat :=
  s.nvme.slots.findIdx? fun x => x.inUse && x.q == q && x.cid == cid

/-- `complete(q, cid, status, e)` (rules R382, R384). -/
def complete (q : QueueId) (e : Bytes) (s : State) : State :=
  match findSlot q (cqeCid e) s with
  | none => raiseFault .unexpectedEvent s
  | some i => settle i (cqeStatus e) (setSlot i { s.nvme.slot i with cqe := e, phase := cqePhase e } s)

/-! ## The poll (rules R380, R381) -/

/-- The entry at the head of `CQ[q]`. -/
def headCqe (q : QueueId) (s : State) : Bytes := s.bytes (.cq q) (16 * (s.nvme.queue q).cqHead.val) 16

/-- The head entry is new: its phase bit is the expected one. -/
def cqeFresh (q : QueueId) (s : State) : Bool := cqePhase (headCqe q s) == (s.nvme.queue q).cqPhase

/-- A queue pair with one entry consumed and the head doorbell written. -/
def QueuePair.consume (p : QueuePair) : QueuePair :=
  let h := nextIndex p.cqHead
  { p with
    cqHead := h
    cqPhase := if h.val = 0 then !p.cqPhase else p.cqPhase
    consumed := p.consumed + 1
    cqHeadDb := h.val }

/-- One turn of the loop of `poll(q)`: the new entry at the head is consumed and completed. -/
def pollOne (q : QueueId) (s : State) : State :=
  complete q (headCqe q s) { s with nvme := s.nvme.setQueue q (s.nvme.queue q).consume }

/-! ## The command time-out (rule R392) -/

/-- Slot `i` has been outstanding for `T_nvme_cmd` (rule R178). -/
def slotExpired (i : Nat) (s : State) : Bool :=
  (s.nvme.slot i).inUse && decide (Config.tNvmeCmd ≤ s.now - (s.nvme.slot i).issuedAt)

/-- The time-out of slot `i`. -/
def slotTimeout (i : Nat) (s : State) : State :=
  let t := release i s
  match (s.nvme.slot i).owner with
  | .ctx => raiseFault .nvmeTimeout t
  | .init => initFail t
  | .none => t

end Sys2Proof.Machine
end

