-- ==== Sys2Proof/Machine/Control.lean ====
section
/-! DEFINITION. The meanings of the control requests: the setup-phase handler of each (rules R231, R236 to R245). -/

namespace Sys2Proof.Machine

/-- A device-to-host request that is answered: the reply is kept for the data phase (rule R231). -/
def ctlReply (reply : Bytes) (wLength : BitVec 16) (s : State) : State :=
  ctlAccept true wLength { ctlBegin s with ctl := { (ctlBegin s).ctl with reply := reply } }

/-- GET_STATUS of the device (rule R243). -/
def execGetStatusDevice (_wValue _wIndex wLength : BitVec 16) (s : State) : Host.Outcome State Fault Refusal :=
  .next (ctlReply (statusBytes false) wLength s)

/-- GET_STATUS of an interface (rule R243). -/
def execGetStatusInterface (_wValue wIndex wLength : BitVec 16) (s : State) : Host.Outcome State Fault Refusal :=
  .next (if wIndex = 0 then ctlReply (statusBytes false) wLength s else ep0Stall s)

/-- GET_STATUS of an endpoint (rule R243). -/
def execGetStatusEndpoint (_wValue wIndex wLength : BitVec 16) (s : State) : Host.Outcome State Fault Refusal :=
  .next (if wIndex = 0x0081 then ctlReply (statusBytes s.usb.haltIn) wLength s
    else if wIndex = 0x0002 then ctlReply (statusBytes s.usb.haltOut) wLength s
    else if wIndex = 0x0000 ∨ wIndex = 0x0080 then ctlReply (statusBytes false) wLength s
    else ep0Stall s)

/-- What CLEAR_FEATURE(ENDPOINT_HALT) does to an endpoint (rule R244); none where endpoint 0 stalls. -/
def clearHalt (wIndex : BitVec 16) (s : State) : Option State :=
  if wIndex = 0x0081 then
    some (if s.usb.botResetRequired then s else { s with usb := { s.usb with haltIn := false } })
  else if wIndex = 0x0002 then
    some (if s.usb.botResetRequired then s
      else armCbwIf (s.usb.config == 1 && s.ctx.state == .done) { s with usb := { s.usb with haltOut := false } })
  else if wIndex = 0x0000 ∨ wIndex = 0x0080 then some s
  else none

/-- CLEAR_FEATURE (rule R244). -/
def execClearFeature (wValue wIndex wLength : BitVec 16) (s : State) : Host.Outcome State Fault Refusal :=
  .next (if wValue ≠ 0 ∨ wLength ≠ 0 then ep0Stall s
    else match clearHalt wIndex (ctlBegin s) with
      | some t => ctlAccept false wLength t
      | none => ep0Stall s)

/-- SET_ADDRESS (rule R241): the address is adopted at the status phase. -/
def execSetAddress (wValue _wIndex wLength : BitVec 16) (s : State) : Host.Outcome State Fault Refusal :=
  .next (if 127 < wValue.toNat ∨ wLength ≠ 0 then ep0Stall s
    else ctlAccept false wLength
      { ctlBegin s with ctl := { (ctlBegin s).ctl with pendingAddress := some (wValue.extractLsb' 0 7) } })

/-- GET_DESCRIPTOR (rule R237). -/
def execGetDescriptor (type index : BitVec 8) (_wIndex wLength : BitVec 16) (s : State) : Host.Outcome State Fault Refusal :=
  .next (match descriptorReply type index with
    | some reply => ctlReply reply wLength s
    | none => ep0Stall s)

/-- The effect of an accepted SET_CONFIGURATION (rule R242). -/
def setConfig (c : BitVec 8) (s : State) : State :=
  let owed := s.usb.botResetRequired
  let t := { s with usb := { s.usb with config := c, haltIn := s.usb.haltIn && owed, haltOut := s.usb.haltOut && owed } }
  let u := armCbwIf (c == 1 && t.ctx.state == .done && !t.usb.haltOut) t
  if c = 0 then armOut .none u else u

/-- SET_CONFIGURATION (rule R242). -/
def execSetConfiguration (wValue _wIndex wLength : BitVec 16) (s : State) : Host.Outcome State Fault Refusal :=
  .next (if wLength ≠ 0 ∨ 1 < (wValue.extractLsb' 0 8).toNat then ep0Stall s
    else ctlAccept false wLength (setConfig (wValue.extractLsb' 0 8) (ctlBegin s)))

/-- Bulk-Only Mass Storage Reset (rule R245): the reset is owed at the status phase. -/
def execBulkOnlyReset (wValue wIndex wLength : BitVec 16) (s : State) : Host.Outcome State Fault Refusal :=
  .next (if wValue ≠ 0 ∨ wIndex ≠ 0 ∨ wLength ≠ 0 then ep0Stall s
    else ctlAccept false wLength { ctlBegin s with ctl := { (ctlBegin s).ctl with pendingAction := .botReset } })

/-- Every other request (rules R235, R236). -/
def execUnhandledRequest (_bmRequestType _bRequest : BitVec 8) (_wValue _wIndex _wLength : BitVec 16) (s : State) :
    Host.Outcome State Fault Refusal :=
  .next (ep0Stall s)

end Sys2Proof.Machine
end

