-- ==== Sys2Proof/Machine/Scsi.lean ====
section
/-! DEFINITION. The meanings of the nine standard SCSI commands and of an unlisted opcode (45_scsi_commands.md). -/

namespace Sys2Proof.Machine

/-- TEST UNIT READY (rule R313). -/
def execTestUnitReady (s : State) : Host.Outcome State Fault Refusal :=
  .next (runCdb .dirNone 0 (fun t => if ready t then finish 0 t else checkCondition senseNotReady t) s)

/-- REQUEST SENSE (rule R311): the sense is built into `STAGING`, then cleared. -/
def execRequestSense (alloc : BitVec 8) (s : State) : Host.Outcome State Fault Refusal :=
  .next (runCdb .dirIn (cutLen 18 alloc.toNat)
    (fun t => sendBuf { storeBytes .staging 0 (senseBytes t.sense) t with sense := .none }) s)

/-- INQUIRY (rule R312); the page code is ignored when `EVPD = 0`. -/
def execInquiry (evpd : Bool) (_page : BitVec 8) (alloc : BitVec 16) (s : State) : Host.Outcome State Fault Refusal :=
  .next (if evpd then checkCondition senseBadField s
    else runCdb .dirIn (cutLen 36 alloc.toNat) (fun t => sendBuf (storeBytes .staging 0 inquiryBytes t)) s)

/-- MODE SENSE(6) (rule R314): one response for every page code and page control. -/
def execModeSense6 (_pc : BitVec 2) (_page : BitVec 6) (alloc : BitVec 8) (s : State) : Host.Outcome State Fault Refusal :=
  .next (runCdb .dirIn (cutLen 24 alloc.toNat) (fun t => sendBuf (storeBytes .staging 0 modeSenseBytes t)) s)

/-- READ CAPACITY(10) (rule R315). -/
def execReadCapacity10 (s : State) : Host.Outcome State Fault Refusal :=
  .next (if ready s then
      runCdb .dirIn 8 (fun t => sendBuf (storeBytes .staging 0 (capacityBytes t.nvme.nsSize t.nvme.blockSize) t)) s
    else checkCondition senseNotReady s)

/-- `Decode` of READ(10) and WRITE(10) up to the frame (rules R316, R317). -/
def runMedium (dir : Dir) (lba : BitVec 32) (blocks : BitVec 16) (body : State → State) (s : State) : State :=
  if ready s = false then checkCondition senseNotReady s
  else if lbaOutOfRange lba blocks s then checkCondition senseLbaRange s
  else runCdb dir (blocksLen blocks s) body
    { s with ctx := { s.ctx with lba := lba.setWidth 64, blocksLeft := blocks.setWidth 32 } }

/-- READ(10) (rule R316): one NVMe Read a chunk. -/
def execRead10 (lba : BitVec 32) (blocks : BitVec 16) (s : State) : Host.Outcome State Fault Refusal :=
  .next (runMedium .dirIn lba blocks readNextChunk s)

/-- WRITE(10) (rule R317): the first chunk is asked of the host. -/
def execWrite10 (lba : BitVec 32) (blocks : BitVec 16) (s : State) : Host.Outcome State Fault Refusal :=
  .next (runMedium .dirOut lba blocks writeNextChunk s)

/-- SYNCHRONIZE CACHE (rule R318): one NVMe Flush. -/
def execSynchronizeCache (s : State) : Host.Outcome State Fault Refusal :=
  .next (if ready s then runCdb .dirNone 0 (callSubmit (encode (.nvmeFlush 0 Config.nsid)) .ctx) s
    else checkCondition senseNotReady s)

/-- REPORT LUNS (rule R319). -/
def execReportLuns (alloc : BitVec 32) (s : State) : Host.Outcome State Fault Refusal :=
  .next (runCdb .dirIn (cutLen 16 alloc.toNat) (fun t => sendBuf (storeBytes .staging 0 lunBytes t)) s)

/-- Any other opcode (rule R320). -/
def execIllegalOpcode (_op : BitVec 8) (s : State) : Host.Outcome State Fault Refusal :=
  .next (checkCondition senseBadOpcode s)

end Sys2Proof.Machine
end

