-- ==== Sys2Proof/Machine/Vendor.lean ====
section
/-! DEFINITION. The meanings of the vendor commands 0xE0 to 0xE8 (46_vendor_commands.md). -/

namespace Sys2Proof.Machine

/-- `n` bytes of the flash from `a` are read into `STAGING` and sent; a read that the driver fails is `VendorError`, with
`STAGING` kept (rules R343, R455, notes/assumptions/28.md). Where nothing is to be read the driver is not called. -/
def sendFlash (a n : Nat) (s : State) : State :=
  if n = 0 ∨ s.flashOk = true then sendBuf (storeBytes .staging 0 (s.bytes .flash a n) s) else vendorError s

/-- 0xE0 0x50, read config block (rule R344). -/
def execVendorE0 (blockno : BitVec 8) (s : State) : Host.Outcome State Fault Refusal :=
  .next (if 1 < blockno.toNat then vendorError s
    else runCdb .dirIn 128 (sendFlash (128 * blockno.toNat) 128) s)

/-- 0xE1 0x50, write config block (rule R345): the 128 bytes are asked of the host. -/
def execVendorE1 (blockno : BitVec 8) (s : State) : Host.Outcome State Fault Refusal :=
  .next (if 1 < blockno.toNat then vendorError s else runCdb .dirOut 128 writeNextChunk s)

/-- 0xE2, read flash from offset 0 (rule R347). -/
def execVendorE2 (length : BitVec 32) (s : State) : Host.Outcome State Fault Refusal :=
  .next (if Config.stagingSize < length.toNat then vendorError s
    else runCdb .dirIn (length.setWidth 64) (sendFlash 0 length.toNat) s)

/-- `Decode` of 0xE3 for one part, then the first chunk is asked of the host (rule R348). -/
def runStream (p : FwPart) (length : BitVec 32) (s : State) : State :=
  if p.lim < p.base + (s.fw.cursor p).toNat + length.toNat then vendorError s
  else runCdb .dirOut (length.setWidth 64) writeNextChunk s

/-- 0xE3 0x50, stream firmware Part 1 (rule R348). -/
def execVendorE3Part1 (length : BitVec 32) (s : State) : Host.Outcome State Fault Refusal :=
  .next (runStream .part1 length s)

/-- 0xE3 0xD0, stream firmware Part 2 (rule R348). -/
def execVendorE3Part2 (length : BitVec 32) (s : State) : Host.Outcome State Fault Refusal :=
  .next (runStream .part2 length s)

/-- 0xE4, read registers (rule R352). -/
def execVendorE4 (size : BitVec 8) (addr : BitVec 24) (s : State) : Host.Outcome State Fault Refusal :=
  .next (if badRegRange size addr then vendorError s
    else runCdb .dirIn (size.setWidth 64) (fun t => sendBuf (regBlock size.toNat (regAddr addr) 0 t)) s)

/-- 0xE5, write register (rule R354); a write that resets the block ends the command with it (rules R361, R471). -/
def execVendorE5 (value : BitVec 8) (addr : BitVec 24) (s : State) : Host.Outcome State Fault Refusal :=
  .next (if 0xFFFF < addr.toNat then vendorError s
    else runCdb .dirNone 0
      (fun t => if writeResets (regAddr addr) value then powerOn t else finish 0 (regWrite (regAddr addr) value t)) s)

/-- 0xE6 up to the submission of its admin command (rule R355). -/
def runAdmin (opc : Byte) (rest : BitVec 112) (cmd : Instr) (s : State) : State :=
  if s.link.state = .ready ∧ s.link.pcieLinkUp = true then
    runCdb .dirIn (e6Len opc rest) (callSubmit (encode cmd) .ctx) s
  else checkCondition senseNotReady s

/-- 0xE6 0x02, Get Log Page passthrough (rule R355). -/
def execVendorE6LogPage (rest : BitVec 112) (s : State) : Host.Outcome State Fault Refusal :=
  .next (runAdmin 0x02 rest (.getLogPage 0 (Config.e6Nsid 0x02 rest) Config.stagingPcieAddr
    (Config.e6Cdw10 0x02 rest) (Config.e6Cdw11 0x02 rest)) s)

/-- 0xE6 0x06, Identify passthrough (rule R355). -/
def execVendorE6Identify (rest : BitVec 112) (s : State) : Host.Outcome State Fault Refusal :=
  .next (runAdmin 0x06 rest (.identify 0 (Config.e6Nsid 0x06 rest) Config.stagingPcieAddr
    (Config.e6Cdw10 0x06 rest) (Config.e6Cdw11 0x06 rest)) s)

/-- A command without data whose effect follows its CSW (rules R356 to R358). -/
def finishThen (a : AfterCsw) (s : State) : State := finish 0 { s with ctx := { s.ctx with afterCsw := a } }

/-- 0xE8 0x00, hard CPU reset (rule R356). -/
def execVendorE8Reset (s : State) : Host.Outcome State Fault Refusal :=
  .next (runCdb .dirNone 0 (finishThen .hardReset) s)

/-- 0xE8 0x01, re-enumerate (rule R357). -/
def execVendorE8Reenumerate (s : State) : Host.Outcome State Fault Refusal :=
  .next (runCdb .dirNone 0 (finishThen .reenumerate) s)

/-- 0xE8 0x51, commit (rule R358). That the flash driver cannot fail its "mark valid" (rule R343) is a DESIGN CHOICE
(notes/assumptions/47.md). -/
def execVendorE8Commit (s : State) : Host.Outcome State Fault Refusal :=
  .next (runCdb .dirNone 0 (fun t =>
    finishThen .commitReset { t with fw := { cursor1 := 0, cursor2 := 0, staged := false, flashValid := true } }) s)

/-- 0xE0 with another sub-opcode (rule R343). -/
def execVendorE0BadSub (_sub : BitVec 8) (s : State) : Host.Outcome State Fault Refusal := .next (vendorError s)
/-- 0xE1 with another sub-opcode (rule R343). -/
def execVendorE1BadSub (_sub : BitVec 8) (s : State) : Host.Outcome State Fault Refusal := .next (vendorError s)
/-- 0xE3 with another sub-opcode (rule R343). -/
def execVendorE3BadSub (_sub : BitVec 8) (s : State) : Host.Outcome State Fault Refusal := .next (vendorError s)
/-- 0xE6 with another sub-opcode (rule R343). -/
def execVendorE6BadSub (_sub : BitVec 8) (s : State) : Host.Outcome State Fault Refusal := .next (vendorError s)
/-- 0xE8 with another sub-opcode (rule R343). -/
def execVendorE8BadSub (_sub : BitVec 8) (s : State) : Host.Outcome State Fault Refusal := .next (vendorError s)

end Sys2Proof.Machine
end

