-- ==== Sys2Proof/Machine/Dispatch.lean ====
section
/-! DEFINITION. One arm per instruction: the call of its meaning. -/

namespace Sys2Proof.Machine

def exec (i : Instr) (s : State) : Host.Outcome State Fault Refusal :=
  match i with
  | .testUnitReady => Sys2Proof.Machine.execTestUnitReady s
  | .requestSense alloc => Sys2Proof.Machine.execRequestSense alloc s
  | .inquiry evpd page alloc => Sys2Proof.Machine.execInquiry evpd page alloc s
  | .modeSense6 pc page alloc => Sys2Proof.Machine.execModeSense6 pc page alloc s
  | .readCapacity10 => Sys2Proof.Machine.execReadCapacity10 s
  | .read10 lba blocks => Sys2Proof.Machine.execRead10 lba blocks s
  | .write10 lba blocks => Sys2Proof.Machine.execWrite10 lba blocks s
  | .synchronizeCache => Sys2Proof.Machine.execSynchronizeCache s
  | .reportLuns alloc => Sys2Proof.Machine.execReportLuns alloc s
  | .vendorE0_50 blockno => Sys2Proof.Machine.execVendorE0 blockno s
  | .vendorE1_50 blockno => Sys2Proof.Machine.execVendorE1 blockno s
  | .vendorE2 length => Sys2Proof.Machine.execVendorE2 length s
  | .vendorE3_50 length => Sys2Proof.Machine.execVendorE3Part1 length s
  | .vendorE3_D0 length => Sys2Proof.Machine.execVendorE3Part2 length s
  | .vendorE4 size addr => Sys2Proof.Machine.execVendorE4 size addr s
  | .vendorE5 value addr => Sys2Proof.Machine.execVendorE5 value addr s
  | .vendorE6_02 rest => Sys2Proof.Machine.execVendorE6LogPage rest s
  | .vendorE6_06 rest => Sys2Proof.Machine.execVendorE6Identify rest s
  | .vendorE8_00 => Sys2Proof.Machine.execVendorE8Reset s
  | .vendorE8_01 => Sys2Proof.Machine.execVendorE8Reenumerate s
  | .vendorE8_51 => Sys2Proof.Machine.execVendorE8Commit s
  | .vendorE0BadSub sub => Sys2Proof.Machine.execVendorE0BadSub sub s
  | .vendorE1BadSub sub => Sys2Proof.Machine.execVendorE1BadSub sub s
  | .vendorE3BadSub sub => Sys2Proof.Machine.execVendorE3BadSub sub s
  | .vendorE6BadSub sub => Sys2Proof.Machine.execVendorE6BadSub sub s
  | .vendorE8BadSub sub => Sys2Proof.Machine.execVendorE8BadSub sub s
  | .illegalOpcode op => Sys2Proof.Machine.execIllegalOpcode op s
  | .getStatusDevice wValue wIndex wLength => Sys2Proof.Machine.execGetStatusDevice wValue wIndex wLength s
  | .getStatusInterface wValue wIndex wLength => Sys2Proof.Machine.execGetStatusInterface wValue wIndex wLength s
  | .getStatusEndpoint wValue wIndex wLength => Sys2Proof.Machine.execGetStatusEndpoint wValue wIndex wLength s
  | .clearFeature wValue wIndex wLength => Sys2Proof.Machine.execClearFeature wValue wIndex wLength s
  | .setAddress wValue wIndex wLength => Sys2Proof.Machine.execSetAddress wValue wIndex wLength s
  | .getDescriptor type index wIndex wLength => Sys2Proof.Machine.execGetDescriptor type index wIndex wLength s
  | .setConfiguration wValue wIndex wLength => Sys2Proof.Machine.execSetConfiguration wValue wIndex wLength s
  | .bulkOnlyReset wValue wIndex wLength => Sys2Proof.Machine.execBulkOnlyReset wValue wIndex wLength s
  | .unhandledRequest bmRequestType bRequest wValue wIndex wLength => Sys2Proof.Machine.execUnhandledRequest bmRequestType bRequest wValue wIndex wLength s
  | .identify cid nsid prp1 cdw10 cdw11 => Sys2Proof.Machine.execIdentify cid nsid prp1 cdw10 cdw11 s
  | .createIoCq cid prp1 cdw10 cdw11 => Sys2Proof.Machine.execCreateIoCq cid prp1 cdw10 cdw11 s
  | .createIoSq cid prp1 cdw10 cdw11 => Sys2Proof.Machine.execCreateIoSq cid prp1 cdw10 cdw11 s
  | .getLogPage cid nsid prp1 cdw10 cdw11 => Sys2Proof.Machine.execGetLogPage cid nsid prp1 cdw10 cdw11 s
  | .nvmeFlush cid nsid => Sys2Proof.Machine.execNvmeFlush cid nsid s
  | .nvmeWrite cid nsid prp1 slba nlb => Sys2Proof.Machine.execNvmeWrite cid nsid prp1 slba nlb s
  | .nvmeRead cid nsid prp1 slba nlb => Sys2Proof.Machine.execNvmeRead cid nsid prp1 slba nlb s

end Sys2Proof.Machine
end

