-- ==== Sys2Proof/Machine/Handlers.lean ====
section
/-! DEFINITION. The event handlers: the sequencer's fetch of an instruction, control transfers, the two bulk endpoints, the
acknowledged CSW, the end of a wait, system and bus events (files 41 to 44). -/

namespace Sys2Proof.Machine

/-- Moves the sequencer to a place of the loop iteration. -/
def goto (p : Pos) (s : State) : State := { s with seq := { s.seq with pos := p } }

/-- The instruction a carrier holds is run; a carrier that holds none is refused. -/
def runPacket (r : Refusal) (p : Packet) (s : State) : Host.Outcome State Fault Refusal :=
  match decode p with
  | .ok i => exec i s
  | .error _ => .refused r

/-! ## Step 1: the reset request (rule R184) -/

/-- The context of a cancelled command. -/
def cancelCtx (s : State) : State :=
  if s.ctx.state = .done ∨ s.ctx.state = .stalled then s
  else
    let t := orphanCtx (abortDma s)
    let u := { t with ctx := { t.ctx with status := 2 } }
    let v := if u.usb.inBusy = .none ∧ u.usb.haltIn = false then handCsw u else u
    let w := haltOut { v with ctx := { v.ctx with state := .stalled } }
    { w with usb := { w.usb with botResetRequired := true }, ctx := { w.ctx with afterCsw := .haltBoth } }

/-- The reset request is taken (rule R184). -/
def cancel (s : State) : State :=
  raiseFault .resetRequested (cancelCtx { s with ev := { s.ev with resetRequested := false } })

/-! ## Step 2: bus reset (rule R259) -/

def busReset (s : State) : State :=
  let t := { s with ev := { s.ev with usbBusReset := false } }
  match t.link.state with
  | .ready | .resume => clearUsb t
  | .suspend =>
    let u := clearUsb t
    { u with ev := { u.ev with usbResume := true } }
  | .off | .phyInit | .linkTrain | .tunnelCfg | .fault | .recovery => t

/-! ## Steps 3, 4 and 6: control transfers (rules R215, R231 to R233) -/

/-- The setup flag: the request of `ctl.setup` is fetched and run. -/
def ctlSetupPhase (s : State) : Host.Outcome State Fault Refusal :=
  match expectUsb s.link.state with
  | .handle => runPacket .badSetup (.setup s.ctl.setup) s
  | .ignore => .next { s with ev := { s.ev with ctlSetup := false } }
  | .unexpected => .next (raiseFault .unexpectedEvent s)

/-- `wLength` of the setup packet in progress. -/
def setupLength (s : State) : Nat := (getLE16 s.ctl.setup 6).toNat

/-- The data flag (rules R232, R238). -/
def ctlDataPhase (s : State) : State :=
  match expectUsb s.link.state with
  | .handle =>
    if s.ctl.phase = .data then
      { s with
        ctl := { s.ctl with ep0In := s.ctl.reply.take (setupLength s), phase := .status }
        ev := { s.ev with ctlData := false } }
    else raiseFault .unexpectedEvent s
  | .ignore => { s with ev := { s.ev with ctlData := false } }
  | .unexpected => raiseFault .unexpectedEvent s

/-- The address owed at the status phase is adopted (rules R203, R233, R241). -/
def adoptAddress (s : State) : State :=
  match s.ctl.pendingAddress with
  | some a => { s with usb := { s.usb with address := a }, link := { s.link with usbEnumerated := true } }
  | none => s

/-- The status phase of an accepted transfer (rule R233). -/
def ctlFinish (s : State) : State :=
  let t := adoptAddress s
  let u := if s.ctl.pendingAction = .botReset then botReset t else t
  { u with
    ctl := { u.ctl with pendingAddress := none, pendingAction := .none, phase := .idle }
    ev := { u.ev with ctlStatus := false } }

/-- The status flag (rule R233). -/
def ctlStatusPhase (s : State) : State :=
  match expectUsb s.link.state with
  | .handle => if s.ctl.phase = .status then ctlFinish s else raiseFault .unexpectedEvent s
  | .ignore => { s with ev := { s.ev with ctlStatus := false } }
  | .unexpected => raiseFault .unexpectedEvent s

/-! ## Step 5: the bulk endpoints (rules R176, R180, R291, R292) -/

/-- A bulk-OUT transfer arrived while `DONE`: the CDB is fetched and run (rules R271, R275, R276). -/
def receiveCbw (s : State) : Host.Outcome State Fault Refusal :=
  let b := s.bytes .ctrlbuf 0 31
  if validCbw b s.ctrlLen then
    let t := latchCbw b s
    runPacket .badCdb (.cdb t.ctx.cdb) t
  else .next (invalidCbw { s with ctx := { s.ctx with state := .receivingCbw } })

/-- The length of the chunk that was asked of the host (rule R283). -/
def outChunkLen (s : State) : Nat := min 4096 (s.ctx.cmdLen - s.ctx.actual.setWidth 64).toNat

/-- A payload chunk arrives in `AWAITING_DATA`, up to its wait (rule R283). -/
def receiveChunk (s : State) : State := dmaWait (.rx (outChunkLen s)) (dmaSetup .rx (outChunkLen s) s)

/-- The bulk-OUT handler (rules R215, R291, R293). -/
def bulkOutHandler (s : State) : Host.Outcome State Fault Refusal :=
  match expectUsb s.link.state with
  | .handle =>
    if expectBulkOut s then (if s.ctx.state = .done then receiveCbw s else .next (receiveChunk s))
    else .next (raiseFault .unexpectedEvent s)
  | .ignore => .next s
  | .unexpected => .next (raiseFault .unexpectedEvent s)

/-- The next CBW may be asked for (rule R289). -/
def mayArmCbw (s : State) : Bool :=
  s.ctx.state == .done && s.usb.config == 1 && !s.usb.haltOut && (s.link.state == .ready || s.link.state == .resume)

/-- The host has taken the CSW (rule R289). -/
def cswAck (s : State) : State :=
  let t := { s with usb := { s.usb with inBusy := .none }, ctx := { s.ctx with afterCsw := .nothing } }
  match s.ctx.afterCsw with
  | .nothing =>
    let u := if t.ctx.state = .awaitingCsw then { t with ctx := { t.ctx with state := .done } } else t
    armCbwIf (mayArmCbw u) u
  | .haltBoth => haltBoth t
  | .hardReset | .commitReset => powerOn t
  | .reenumerate => raiseFault .softReenumerate { t with ctx := { t.ctx with state := .done } }

/-- The host has taken a payload chunk (rule R292). -/
def dataAck (s : State) : State :=
  let t := { s with usb := { s.usb with inBusy := .none } }
  if t.ctx.state = .sendingData then (if byteAt t.ctx.cdb 0 = 0x28 then readNextChunk t else finish 0 t) else t

/-- The bulk-IN handler (rules R215, R292, R293); in `FAULT` only the CSW's acknowledgement is handled. -/
def bulkInHandler (s : State) : State :=
  match expectUsb s.link.state with
  | .handle =>
    if expectBulkIn s then (if s.usb.inBusy = .csw then cswAck s else dataAck s) else raiseFault .unexpectedEvent s
  | .ignore => if s.link.state = .fault ∧ s.usb.inBusy = .csw then cswAck s else s
  | .unexpected => raiseFault .unexpectedEvent s

/-- The endpoint handler table (rules R176, R180). -/
def epHandler (i : Nat) (s : State) : Host.Outcome State Fault Refusal :=
  if i = 1 then .next (bulkInHandler s)
  else if i = 2 then bulkOutHandler s
  else .next (appendFault .hookUnimplemented s)

/-! ## The end of a wait (rules R181, R281, R283, R414, R415) -/

/-- The wait's time is up. -/
def waitExpired (w : Wait) (s : State) : Bool := decide (w.bound ≤ s.now - w.start)

/-- What follows `dma_wait_complete() = OK` (rules R281 to R283). -/
def resumeAt (r : Resume) (s : State) : Host.Outcome State Fault Refusal :=
  match r with
  | .tx n =>
    let t := { s with ctx := { s.ctx with actual := s.ctx.actual + BitVec.ofNat 32 n },
                      usb := { s.usb with inBusy := .data n } }
    .next (if byteAt t.ctx.cdb 0 = 0x28 then
        advanceLba n { t with ctx := { t.ctx with chunkIdx := t.ctx.chunkIdx + 1 } }
      else t)
  | .rx n =>
    let t := armOut .none { s with ctx := { s.ctx with actual := s.ctx.actual + BitVec.ofNat 32 n, state := .executing } }
    chunkExec n t

/-- A turn of the sequencer in a wait: go on, time out, or stay blocked (rules R181, R414, R415). -/
def waitStep (w : Wait) (s : State) : Host.Outcome State Fault Refusal :=
  let t := { s with seq := { s.seq with wait := none } }
  if s.dma.done then resumeAt w.resume t
  else if waitExpired w s then .next (raiseFault .dmaTimeout t)
  else .next s

/-! ## Step 7: system events (rules R177, R210, R211) -/

/-- The link states in which a lost PCIe link is a fault (rule R210). -/
def linkDownFaults : LinkState → Bool
  | .tunnelCfg | .ready | .suspend | .resume => true
  | .off | .phyInit | .linkTrain | .fault | .recovery => false

/-- `LINK_CHANGE` (rule R210). -/
def linkChange (s : State) : State :=
  let t := { s with ev := { s.ev with sysLinkChange := false } }
  if t.ev.linkIsUp = false ∧ t.link.pcieLinkUp = true ∧ linkDownFaults t.link.state = true then raiseFault .linkDown t else t

/-- `ERROR` (rule R211). -/
def hwError (s : State) : State :=
  let t := { s with ev := { s.ev with sysError := false } }
  match t.link.state with
  | .off | .fault | .recovery => t
  | .phyInit | .linkTrain | .tunnelCfg | .ready | .suspend | .resume => raiseFault .hwError t

/-- `CQE_READY` up to its poll (rules R177, R215, R381): the poll's place is given by the caller. -/
def cqeEvent (s : State) : State :=
  let t := { s with ev := { s.ev with sysCqeReady := false } }
  match expectCqe t.link.state with
  | .handle => goto (.poll .admin false) t
  | .ignore => t
  | .unexpected => raiseFault .unexpectedEvent t

/-! ## Step 8: suspend and resume (rules R204, R205, R207) -/

/-- A command of the context is outstanding in the NVMe engine. -/
def ctxOutstanding (s : State) : Bool := s.nvme.slots.any fun x => x.inUse && x.owner == .ctx

/-- `READY → SUSPEND` (rule R205). -/
def enterSuspend (s : State) : State :=
  enter .suspend (rmwList Config.clockGateList { s with link := { s.link with suspended := true } })

/-- The suspend event (rule R204). -/
def usbSuspend (s : State) : State :=
  if s.link.state = .ready then
    if s.ctx.state = .done ∧ ctxOutstanding s = false then
      enterSuspend { s with ev := { s.ev with usbSuspend := false } }
    else s
  else { s with ev := { s.ev with usbSuspend := false } }

/-- The resume event (rule R207). -/
def usbResume (s : State) : State :=
  let t := { s with ev := { s.ev with usbResume := false } }
  if t.link.state = .suspend then enter .resume (rmwList (inverseList Config.clockGateList) t) else t

/-! ## Step 9: periodic work (rule R178) -/

/-- The first two lines of the periodic work. -/
def tickWork (s : State) : State :=
  { s with
    ev := { s.ev with tickPending := false, sysTimer := false }
    link := { s.link with timeoutCounter := s.now - s.link.stateEntry } }

/-- The NVMe engine is left alone in these states (rule R178). -/
def engineAlone : LinkState → Bool
  | .fault | .recovery => true
  | .off | .phyInit | .linkTrain | .tunnelCfg | .ready | .suspend | .resume => false

/-! ## Step 10: the link tick (rules R192 to R214) -/

/-- Ticks since the present link state was entered. -/
def inState (s : State) : Nat := s.now - s.link.stateEntry

/-- `OFF → PHY_INIT` (rule R193). -/
def leaveOff (s : State) : State :=
  let t := rmwList Config.phyInitList s
  enter .phyInit { t with link := { t.link with retryCounter := 0 } }

/-- `PHY_INIT → LINK_TRAIN` with its entry actions (rules R196, R198). -/
def phyReady (s : State) : State :=
  trainTunnel (enter .linkTrain { s with link := { s.link with phyReady := true, retryCounter := 0 } })

/-- The PHY-ready time-out (rule R197). -/
def phyTimeout (s : State) : State :=
  let t := { s with link := { s.link with retryCounter := s.link.retryCounter + 1 } }
  if Config.phyRetryMax ≤ t.link.retryCounter then raiseFault .phyTimeout t else enter .phyInit t

/-- A tick in `PHY_INIT` (rule R195). -/
def tickPhyInit (s : State) : State :=
  if s.phy.rdyA = true ∧ s.phy.rdyB = true then phyReady s
  else if Config.tPhyReady ≤ inState s then phyTimeout s
  else s

/-- A tick in `LINK_TRAIN` (rules R199, R200). -/
def tickLinkTrain (s : State) : State :=
  if s.phy.tunComplete then enter .tunnelCfg { s with link := { s.link with pcieLinkUp := true } }
  else if Config.tLinkTrain ≤ inState s then raiseFault .tunnelTimeout s
  else s

/-- A tick in `TUNNEL_CFG` (rules R201, R202). -/
def tickTunnelCfg (s : State) : State :=
  match s.nvme.init with
  | .idle => initStart s
  | .done | .failed => enter .ready { s with usb := { s.usb with connected := true } }
  | .idCtrl | .idNs | .createCq | .createSq => s

/-- A tick in `RESUME` (rules R208, R209). -/
def tickResume (s : State) : State :=
  if s.phy.clocksOn then enter .ready { s with link := { s.link with suspended := false } }
  else if Config.tResume ≤ inState s then raiseFault .resumeTimeout s
  else s

/-- A tick in `FAULT` (rule R214): the CSW may still go out, then the return from the fault. -/
def tickFault (s : State) : State :=
  if s.usb.inBusy = .csw ∧ inState s < Config.tCswFlush then s else recover s

/-- The link tick (rule R192). -/
def linkTick (s : State) : State :=
  match s.link.state with
  | .off => leaveOff s
  | .phyInit => tickPhyInit s
  | .linkTrain => tickLinkTrain s
  | .tunnelCfg => tickTunnelCfg s
  | .ready | .suspend => s
  | .resume => tickResume s
  | .fault => tickFault s
  | .recovery => recover s

end Sys2Proof.Machine
end

