-- ==== Sys2Proof/Machine/Loop.lean ====
section
/-! DEFINITION. The loop iteration of rule R173, one step of the sequencer, one step of the machine, and the placing of an
instruction where the sequencer fetches its next one. -/

namespace Sys2Proof.Machine

/-- The condition of a numbered step of the iteration: skipped when its flag is not set (rule R173). -/
def unlessFlag (flag : Bool) (f : State → State) (s : State) : State := if flag then f s else s

/-- One turn of `poll(q)` of rule R381: a new entry is consumed and completed, else the poll of `q` is over. -/
def pollTurn (q : QueueId) (fromTick : Bool) (s : State) : State :=
  if cqeFresh q s then pollOne q s
  else match q with
    | .admin => goto (.poll .io fromTick) s
    | .io => goto (if fromTick then .linkTick else .sysError) s

/-- One slot of the time-out check of rule R178. The slots are checked from index 0 up, and the fault of a context's slot ends
the check, a DESIGN CHOICE (notes/assumptions/44.md). -/
def timeoutTurn (i : Nat) (s : State) : State :=
  if s.nvme.slots.length ≤ i then goto (.poll .admin true) s
  else
    let t := goto (.timeouts (i + 1)) s
    if slotExpired i t then slotTimeout i t else t

/-- The sequencer at its place in the iteration (rules R173, R175). The place moves on before the handler runs, so a
handler that raises `Fault` (the iteration ends) or waits finds it set. -/
def posStep (s : State) : Host.Outcome State Fault Refusal :=
  match s.seq.pos with
  | .top => .next (if s.ev.resetRequested then cancel s else goto .busReset s)
  | .busReset => .next (unlessFlag s.ev.usbBusReset busReset (goto .ctlSetup s))
  | .ctlSetup => if s.ev.ctlSetup then ctlSetupPhase (goto .ctlData s) else .next (goto .ctlData s)
  | .ctlData => .next (unlessFlag s.ev.ctlData ctlDataPhase (goto .epScan s))
  | .epScan => .next (if s.ev.epMask = 0 then goto .ctlStatus s else goto (.epServe s.ev.epMask) s)
  | .epServe m =>
    if epLut m = Config.epNone then .next (goto .ctlStatus s)
    else epHandler (epLut m) (goto (.epClear (epLut m) m) s)
  | .epClear i m =>
    .next (goto (.epServe (m &&& ~~~(oneHot i))) { s with ev := { s.ev with epMask := s.ev.epMask &&& ~~~(oneHot i) } })
  | .ctlStatus => .next (unlessFlag s.ev.ctlStatus ctlStatusPhase (goto .sysLink s))
  | .sysLink => .next (unlessFlag s.ev.sysLinkChange linkChange (goto .sysCqe s))
  | .sysCqe => .next (unlessFlag s.ev.sysCqeReady cqeEvent (goto .sysError s))
  | .sysError => .next (unlessFlag s.ev.sysError hwError (goto .suspend s))
  | .suspend => .next (unlessFlag s.ev.usbSuspend usbSuspend (goto .resume s))
  | .resume => .next (unlessFlag s.ev.usbResume usbResume (goto .periodic s))
  | .periodic =>
    .next (if s.ev.sysTimer || s.ev.tickPending then
        goto (if engineAlone s.link.state then .linkTick else .timeouts 0) (tickWork s)
      else goto .linkTick s)
  | .timeouts i => .next (timeoutTurn i s)
  | .poll q fromTick => .next (pollTurn q fromTick s)
  | .linkTick => .next (linkTick (goto .top s))

/-- One step of the sequencer: a wait it is blocked in, a submission it has built, else its place in the iteration. -/
def seqStep (s : State) : Host.Outcome State Fault Refusal :=
  match s.seq.wait with
  | some w => waitStep w s
  | none =>
    match s.seq.submit with
    | some r => runPacket .badSubmission (.sqe r.q r.entry) s
    | none => posStep s

/-- The places that lie inside a handler that serves several items. -/
def Pos.inside : Pos → Bool
  | .epClear _ _ | .timeouts _ | .poll _ _ => true
  | .top | .busReset | .ctlSetup | .ctlData | .epScan | .epServe _ | .ctlStatus | .sysLink | .sysCqe | .sysError
  | .suspend | .resume | .periodic | .linkTick => false

/-- The sequencer is inside a handler and not blocked: no other agent steps (rule R170). -/
def midHandler (s : State) : Bool := s.seq.wait.isNone && (s.seq.submit.isSome || s.seq.pos.inside)

/-- The sequencer is blocked: its wait's predicate is false and its time is not up (rule R181). -/
def blocked (s : State) : Bool :=
  match s.seq.wait with
  | none => false
  | some w => !s.dma.done && !waitExpired w s

/-- One step of the machine: inside a handler the sequencer goes on; else the next input decides who steps. With no input
left the sequencer steps, and while it is blocked the DMA engine moves all it can (notes/assumptions/9.md). -/
def machineStep (s : State) : Host.Outcome State Fault Refusal :=
  if midHandler s then seqStep s
  else match s.env with
    | [] => if blocked s then .next (dmaStep Config.stagingSize s) else seqStep s
    | .seq :: rest => seqStep { s with env := rest }
    | i :: rest => .next (agentStep i { s with env := rest })

/-! ## Placing an instruction -/

/-- The direction flag and the length of a CBW that lets a CDB's phase check pass (rules R276, R277). -/
def placedOut (b : Bytes) : Bool := byteAt b 0 == 0xE1 || byteAt b 0 == 0xE3 || byteAt b 0 == 0x2A

/-- A valid CBW that carries a CDB: tag 1, 4096 bytes, LUN 0 (rules R111, R271). -/
def cbwOf (b : Bytes) : Bytes :=
  [0x55, 0x53, 0x42, 0x43] ++ putLE32 1 ++ putLE32 4096 ++ [if placedOut b then 0x00 else 0x80, 0x00, 0x10] ++ padTo 16 b

/-- The machine with an instruction where its next step fetches one (notes/assumptions/1.md): a CBW received on bulk-OUT,
a setup packet received on endpoint 0, or a submission entry built. -/
def placePacket (p : Packet) (s : State) : State :=
  match p with
  | .cdb b =>
    let t := storeBytes .ctrlbuf 0 (cbwOf b) s
    { t with
      ctrlLen := 31
      link := { t.link with state := .ready }
      usb := { t.usb with config := 1 }
      ctx := { t.ctx with state := .done }
      seq := { pos := .epServe 0x04, wait := none, submit := none }
      env := .seq :: t.env }
  | .setup b =>
    { s with
      link := { s.link with state := .ready }
      ctl := { s.ctl with setup := b }
      ev := { s.ev with ctlSetup := true }
      seq := { pos := .ctlSetup, wait := none, submit := none }
      env := .seq :: s.env }
  | .sqe q e => { s with seq := { s.seq with wait := none, submit := some { q := q, entry := e, owner := .none } } }

end Sys2Proof.Machine
end

