-- ==== Sys2Proof/Machine/Step.lean ====
section
/-! DEFINITION. The step, and the instruction placed where the step fetches. -/

namespace Sys2Proof.Machine

/-- One step of the machine (rules R94, R170, R173). -/
def step (s : State) : Host.Outcome State Fault Refusal := machineStep s

/-- The state with the instruction of a table word where `step` fetches its next one. -/
def State.withFetchWord (s : State) (_nbits w : Nat) : State := placePacket (packetOfTableWord w) s

end Sys2Proof.Machine
end

