-- ==== Sys2Proof/Safety.lean ====
section
/-! DEFINITION. What a good run is, in the terms the statements use: the outcomes a command can have, what a step may
change, and the invariants. -/

namespace Sys2Proof.Machine

/-! ## Turns and frames -/

/-- The sequencer has the turn: no input is waiting, or the next one is its own; `u` is the state it steps from. -/
def turn (s u : State) : Prop := (s.env = [] ∧ u = s) ∨ ∃ r, s.env = .seq :: r ∧ u = { s with env := r }

/-- Every byte of every space outside `P` reads after as it read before. -/
def Changes (s t : State) (P : Space → Nat → Prop) : Prop := ∀ sp o, ¬ P sp o → t.byte sp o = s.byte sp o

/-- The 13 bytes of `CSWBUF`. -/
def inCsw (sp : Space) (o : Nat) : Prop := sp = .cswbuf ∧ o < 13

/-- The byte of the register space at `a` after a list of read-modify-writes, where it was `b`: each triple of that address
puts `set` under its mask (rules R162, R194), where a list may name the address (rules R21, R163). -/
def rmwByteAt (l : List (BitVec 16 × BitVec 8 × BitVec 8)) (a : BitVec 16) (b : BitVec 8) : BitVec 8 :=
  l.foldl (fun b x =>
    if x.1 = a ∧ target a = .plain ∧ Config.policy a = .rw ∧ Region.uart.contains a = false then (b &&& ~~~x.2.1) ||| (x.2.2 &&& x.2.1) else b) b

/-! ## How a command ends (rules R284 to R286) -/

/-- The CSW of a context with a status (rules R113, R284). -/
def cswOf (c : Ctx) (st : BitVec 8) : Bytes :=
  [0x55, 0x53, 0x42, 0x53] ++ putLE32 c.tag ++ putLE32 (c.expectedLen - c.actual) ++ [st]

/-- What bulk-OUT accepts once the CSW is out (rules R249, R284, notes/assumptions/42.md). -/
def armedAfter (c : Ctx) (u : Usb) : OutArmed :=
  if c.direction = .dirOut ∧ c.expectedLen ≠ c.actual ∧ u.haltOut = false ∧ u.config ≠ 0 then
    .discard (c.expectedLen - c.actual).toNat
  else .none

/-- The command of context `c` has ended with status `st`: the CSW is in `CSWBUF` and handed to bulk-IN, the sense is `x`,
the NVMe engine is `n`, and nothing else of `s` has changed but memory, of which this says the CSW's bytes. -/
def Ended (s t : State) (c : Ctx) (x : Sense) (n : Nvme) (st : BitVec 8) : Prop :=
  t = { s with
        ctx := { c with status := st, state := .awaitingCsw }
        sense := x
        nvme := n
        usb := { s.usb with inBusy := .csw, outArmed := armedAfter c s.usb, outTaken := 0 }
        usbIn := s.usbIn ++ [cswOf c st]
        mem := t.mem } ∧
  ∀ i, i < 13 → t.byte .cswbuf i = byteAt (cswOf c st) i

/-- The slots of the context are orphaned (rules R285, R342). -/
def orphaned (n : Nvme) : Nvme :=
  { n with slots := n.slots.map fun x => if x.owner = .ctx then { x with owner := .none } else x }

/-- The command ended FAILED with sense `x` (rule R285), or with the sense kept where `x` is the old one (rule R342). -/
def Failed (s t : State) (x : Sense) : Prop := Ended s t s.ctx x (orphaned s.nvme) 1 ∧ Changes s t inCsw

/-! ## The phase check and what `Decode` answers (rules R276, R277, R310, R341) -/

/-- No phase error: the negation of rule R277's predicate. -/
def phaseOk (s : State) (dir : Dir) (len : Nat) : Prop :=
  (len = 0 ∨ s.ctx.direction = dir) ∧ len ≤ s.ctx.expectedLen.toNat

/-- `(cmd_dir, cmd_len)` of a CDB whose `Decode` checks pass, by the tables of rules R310 and R341; none where a check
fails or the instruction is no CDB. -/
def needs (i : Instr) (s : State) : Option (Dir × Nat) :=
  match i with
  | .testUnitReady => some (.dirNone, 0)
  | .requestSense alloc => some (.dirIn, min 18 alloc.toNat)
  | .inquiry evpd _ alloc => if evpd then none else some (.dirIn, min 36 alloc.toNat)
  | .modeSense6 _ _ alloc => some (.dirIn, min 24 alloc.toNat)
  | .readCapacity10 => if ready s then some (.dirIn, 8) else none
  | .read10 lba blocks =>
    if ready s = true ∧ lba.toNat + blocks.toNat ≤ s.nvme.nsSize.toNat then
      some (.dirIn, blocks.toNat * s.nvme.blockSize.toNat) else none
  | .write10 lba blocks =>
    if ready s = true ∧ lba.toNat + blocks.toNat ≤ s.nvme.nsSize.toNat then
      some (.dirOut, blocks.toNat * s.nvme.blockSize.toNat) else none
  | .synchronizeCache => if ready s then some (.dirNone, 0) else none
  | .reportLuns alloc => some (.dirIn, min 16 alloc.toNat)
  | .vendorE0_50 blockno => if blockno.toNat ≤ 1 then some (.dirIn, 128) else none
  | .vendorE1_50 blockno => if blockno.toNat ≤ 1 then some (.dirOut, 128) else none
  | .vendorE2 length => if length.toNat ≤ 4096 then some (.dirIn, length.toNat) else none
  | .vendorE3_50 length =>
    if 0x80 + s.fw.cursor1.toNat + length.toNat ≤ 0x10000 then some (.dirOut, length.toNat) else none
  | .vendorE3_D0 length =>
    if 0x10000 + s.fw.cursor2.toNat + length.toNat ≤ Config.flashSize then some (.dirOut, length.toNat) else none
  | .vendorE4 size addr =>
    if size.toNat ≤ 64 ∧ addr.toNat ≤ 0xFFFF ∧ addr.toNat + size.toNat ≤ 0x10000 then some (.dirIn, size.toNat) else none
  | .vendorE5 _ addr => if addr.toNat ≤ 0xFFFF then some (.dirNone, 0) else none
  | .vendorE6_02 rest =>
    if s.link.state = .ready ∧ s.link.pcieLinkUp = true then some (.dirIn, (Config.e6Len rest).val) else none
  | .vendorE6_06 _ => if s.link.state = .ready ∧ s.link.pcieLinkUp = true then some (.dirIn, 4096) else none
  | .vendorE8_00 | .vendorE8_01 | .vendorE8_51 => some (.dirNone, 0)
  | .vendorE0BadSub _ | .vendorE1BadSub _ | .vendorE3BadSub _ | .vendorE6BadSub _ | .vendorE8BadSub _
  | .illegalOpcode _
  | .getStatusDevice _ _ _ | .getStatusInterface _ _ _ | .getStatusEndpoint _ _ _ | .clearFeature _ _ _
  | .setAddress _ _ _ | .getDescriptor _ _ _ _ | .setConfiguration _ _ _ | .bulkOnlyReset _ _ _
  | .unhandledRequest _ _ _ _ _
  | .identify _ _ _ _ _ | .createIoCq _ _ _ _ | .createIoSq _ _ _ _ | .getLogPage _ _ _ _ _
  | .nvmeFlush _ _ | .nvmeWrite _ _ _ _ _ | .nvmeRead _ _ _ _ _ => none

/-- The context after `Decode`: the two results, and for READ(10) and WRITE(10) the LBA and the block count (rule R316). -/
def decoded (i : Instr) (s : State) (dir : Dir) (len : Nat) : Ctx :=
  match i with
  | .read10 lba blocks | .write10 lba blocks =>
    { s.ctx with cmdDir := dir, cmdLen := BitVec.ofNat 64 len, lba := lba.setWidth 64, blocksLeft := blocks.setWidth 32 }
  | _ => { s.ctx with cmdDir := dir, cmdLen := BitVec.ofNat 64 len }

/-! ## A received CBW (rules R111, R112, R271, R275) -/

/-- The three checks on the transfer in `CTRLBUF`: 31 bytes, the signature `USBC`, a CDB length of 1 to 16. -/
def CbwValid (s : State) : Prop :=
  s.ctrlLen = 31 ∧
  s.byte .ctrlbuf 0 = 0x55 ∧ s.byte .ctrlbuf 1 = 0x53 ∧ s.byte .ctrlbuf 2 = 0x42 ∧ s.byte .ctrlbuf 3 = 0x43 ∧
  1 ≤ (s.byte .ctrlbuf 14).toNat ∧ (s.byte .ctrlbuf 14).toNat ≤ 16

/-- The context that the CBW in `CTRLBUF` creates. -/
def cbwContext (s : State) : Ctx :=
  let b := s.byte .ctrlbuf
  let len : BitVec 32 := (b 11 ++ b 10) ++ (b 9 ++ b 8)
  { s.ctx with
    tag := (b 7 ++ b 6) ++ (b 5 ++ b 4)
    expectedLen := len
    direction := if len = 0 then .dirNone else if (b 12).getLsbD 7 then .dirIn else .dirOut
    lun := (b 13).setWidth 4
    cblen := b 14
    cdb := (List.range 16).map fun i => if i < (b 14).toNat then b (15 + i) else 0
    actual := 0, status := 0, chunkIdx := 0, afterCsw := .nothing, state := .receivingCbw }

/-! ## The data phases (rules R281 to R283) -/

/-- `n` bytes of `STAGING` are being sent for context `c`: the transfer is set up and the sequencer waits for it. -/
def sending (s : State) (c : Ctx) (n : Nat) : State :=
  { s with
    ctx := { c with state := .sendingData }
    dma := { dir := .tx, len := n, ptr := 0, busy := true, done := false, moved := 0 }
    spare := { s.spare with dmaDir := 0 }
    seq := { s.seq with wait := some { pred := .dmaDone, start := s.now, bound := Config.tDma, resume := .tx n } } }

/-- A response of class `IN_BUF` is in `STAGING`; `len` bytes of it are being sent, or the command ends PASSED where `len`
is 0 (rule R281). -/
def Answered (s t : State) (c : Ctx) (len : Nat) (resp : Bytes) : Prop :=
  (0 < len → t = { sending s c len with mem := t.mem }) ∧
  (len = 0 → Ended s t c s.sense s.nvme 0) ∧
  ∀ i, i < resp.length → t.byte .staging i = byteAt resp i

/-- What an answer may change in memory: the response's place, and the CSW's where nothing is sent. -/
def answerBytes (len n : Nat) (sp : Space) (o : Nat) : Prop := (sp = .staging ∧ o < n) ∨ (len = 0 ∧ inCsw sp o)

/-- The next chunk of a data-OUT phase with `len` bytes left is asked of the host (of a host that has configured the device,
rule R249, notes/assumptions/42.md), or the command ends PASSED where `len` is 0 (rule R283). -/
def Asked (s t : State) (c : Ctx) (len : Nat) : Prop :=
  (0 < len → t = { s with
      ctx := { c with state := .awaitingData }
      usb := { s.usb with outArmed := if s.usb.config = 0 then .none else .data (min 4096 len), outTaken := 0 } }) ∧
  (len = 0 → Ended s t c s.sense s.nvme 0 ∧ Changes s t inCsw)

/-- The command `cmd` has been built for queue pair `q` and is the next thing the sequencer issues, for the context. -/
def Submits (s t : State) (c : Ctx) (q : QueueId) (cmd : Instr) : Prop :=
  ∃ e, encode cmd = .sqe q e ∧
    t = { s with ctx := { c with state := .executing },
                 seq := { s.seq with submit := some { q := q, entry := e, owner := .ctx } } }

/-- The command `cmd` of the bring-up's step `st` has been built for the admin queue and is the next thing the sequencer
issues (rule R395). -/
def InitSubmits (s t : State) (st : InitStep) (cmd : Instr) : Prop :=
  ∃ e, encode cmd = .sqe .admin e ∧
    t = { s with nvme := { s.nvme with init := st },
                 seq := { s.seq with submit := some { q := .admin, entry := e, owner := .init } } }

/-! ## Programming the flash (rule R346) -/

/-- Offset `o` of the flash lies in a sector that `n` bytes at `a` touch. -/
abbrev touched (a n o : Nat) : Prop := a / 4096 ≤ o / 4096 ∧ o / 4096 ≤ (a + n - 1) / 4096 ∧ o < Config.flashSize

/-- The flash after `n` bytes of `STAGING` were programmed at `a`: the other bytes of the touched sectors are erased where the
collateral is, and kept where it is not. -/
def Programmed (s t : State) (a n : Nat) : Prop :=
  ∀ o, t.byte .flash o =
    if a ≤ o ∧ o < a + n then s.byte .staging (o - a)
    else if Config.flashCollateralErased = true ∧ touched a n o then 0xFF
    else s.byte .flash o

/-! ## Issuing an entry (rules R92, R373, R377) -/

/-- Slot `k` has been issued holding `x`: it has the first id from `nvme.next_cid` on that no other slot in use holds, its 64
bytes with that id are in the submission queue at the tail, the tail and its doorbell have moved on, and nothing else has
changed. -/
def Issued (s t : State) (k : Nat) (x : Slot) : Prop :=
  ∃ d,
    let c := s.nvme.nextCid + BitVec.ofNat 16 d
    let sent := x.sqe.take 2 ++ putLE16 c ++ x.sqe.drop 4
    let p := s.nvme.queue x.q
    let tail := (p.sqTail.val + 1) % Config.queueDepth
    (∀ j, j < Config.kMax → j ≠ k → (s.nvme.slot j).inUse = true → (s.nvme.slot j).cid ≠ c) ∧
    (∀ d', d' < d → ∃ j, j < Config.kMax ∧ j ≠ k ∧ (s.nvme.slot j).inUse = true ∧
      (s.nvme.slot j).cid = s.nvme.nextCid + BitVec.ofNat 16 d') ∧
    t.nvme.nextCid = c + 1 ∧
    t.nvme.slots = s.nvme.slots.set k { x with sqe := sent, cid := c, issuedAt := s.now } ∧
    (t.nvme.queue x.q).sqTail.val = tail ∧ (t.nvme.queue x.q).sqTailDb = tail ∧
    (t.nvme.queue x.q).cqHead = p.cqHead ∧ (t.nvme.queue x.q).cqPhase = p.cqPhase ∧
    (t.nvme.queue x.q).consumed = p.consumed ∧ (t.nvme.queue x.q).cqHeadDb = p.cqHeadDb ∧
    (∀ r, r ≠ x.q → t.nvme.queue r = s.nvme.queue r) ∧
    t.nvme.init = s.nvme.init ∧ t.nvme.identified = s.nvme.identified ∧ t.nvme.ioCreated = s.nvme.ioCreated ∧
    t.nvme.nsSize = s.nvme.nsSize ∧ t.nvme.blockSize = s.nvme.blockSize ∧
    (∀ j, j < 64 → t.byte (.sq x.q) (64 * p.sqTail.val + j) = byteAt sent j) ∧
    Changes s t (fun sp o => sp = .sq x.q ∧ 64 * p.sqTail.val ≤ o ∧ o < 64 * p.sqTail.val + 64) ∧
    t = { s with nvme := t.nvme, mem := t.mem }

/-! ## Control transfers (rules R231, R236) -/

/-- A device-to-host request is answered with `reply`. -/
def Replied (s t : State) (reply : Bytes) (wLength : BitVec 16) : Prop :=
  t = { s with
        ctl := { s.ctl with reply := reply, pendingAddress := none, pendingAction := .none,
                            phase := if wLength = 0 then .status else .data }
        ev := { s.ev with ctlSetup := false } }

/-- A request without data is accepted, with the effects that `u` has over `s`. -/
def Accepted (u t : State) (a : Option (BitVec 7)) (p : PendingAction) : Prop :=
  t = { u with
        ctl := { u.ctl with reply := [], pendingAddress := a, pendingAction := p, phase := .status }
        ev := { u.ev with ctlSetup := false } }

/-- Endpoint 0 stalls the transfer and no phase flag raised for it is left; an earlier transfer's stays (rule R236,
notes/assumptions/46.md). -/
def Stalled0 (s t : State) : Prop :=
  t = { s with
        ctl := { s.ctl with reply := [], pendingAddress := none, pendingAction := .none, phase := .idle }
        ev := { s.ev with ctlSetup := false, ctlData := s.ev.ctlData && !s.ctl.dataOwn,
                          ctlStatus := s.ev.ctlStatus && !s.ctl.statusOwn }
        usb := { s.usb with ep0Stalled := true } }

/-! ## Faults (rules R47, R212, R213) -/

/-- The fault ring with one record more. -/
def recorded (s : State) (code : FaultCode) : FaultRing :=
  { recs := s.faults.recs.set s.faults.wr
      { state := s.link.state, elapsed := BitVec.ofNat 32 (s.now - s.link.stateEntry), code := code }
    wr := (s.faults.wr + 1) % Config.faultRingN
    count := min (s.faults.count + 1) (2 ^ 32 - 1) }

/-! ## Invariants -/

/-- The memory has its canonical form. -/
def MemInv (s : State) : Prop := s.mem.wf

/-- The pool has `K_MAX` slots and no two slots in use share a command id (rules R376, R377). -/
def CidInv (s : State) : Prop :=
  s.nvme.slots.length = Config.kMax ∧
  ∀ i j, i < Config.kMax → j < Config.kMax → i ≠ j → (s.nvme.slot i).inUse = true → (s.nvme.slot j).inUse = true →
    (s.nvme.slot i).cid ≠ (s.nvme.slot j).cid

/-- The head and the expected phase of each completion queue follow from the entries consumed (rule R385). -/
def HeadInv (s : State) : Prop :=
  ∀ q, (s.nvme.queue q).cqHead.val = (s.nvme.queue q).consumed % Config.queueDepth ∧
    (s.nvme.queue q).cqPhase = decide ((s.nvme.queue q).consumed / Config.queueDepth % 2 = 0)

/-- The cached block size is one the staging buffer can be cut into, once it has been read (rules R8, R395). -/
def BlockInv (s : State) : Prop :=
  (s.nvme.identified = true ∨ s.nvme.init = .createCq ∨ s.nvme.init = .createSq ∨ s.nvme.init = .done) →
    (s.nvme.blockSize = 512 ∨ s.nvme.blockSize = 4096) ∧ s.nvme.nsSize ≠ 0

/-! ## What a step may do -/

/-- A transition of rule R190's table, with its trigger; `RECOVERY` is passed through in the step that leaves `FAULT`
(rule R214). -/
def LinkMove (s t : State) : Prop :=
  (s.link.state = .off ∧ t.link.state = .phyInit) ∨
  (s.link.state = .phyInit ∧ t.link.state = .linkTrain ∧ s.phy.rdyA = true ∧ s.phy.rdyB = true) ∨
  (s.link.state = .linkTrain ∧ t.link.state = .tunnelCfg ∧ s.phy.tunComplete = true) ∨
  (s.link.state = .tunnelCfg ∧ t.link.state = .ready ∧ (s.nvme.init = .done ∨ s.nvme.init = .failed)) ∨
  (s.link.state = .ready ∧ t.link.state = .suspend ∧ s.ev.usbSuspend = true ∧ s.ctx.state = .done) ∨
  (s.link.state = .suspend ∧ t.link.state = .resume ∧ s.ev.usbResume = true) ∨
  (s.link.state = .resume ∧ t.link.state = .ready ∧ s.phy.clocksOn = true) ∨
  (s.link.state ≠ .fault ∧ s.link.state ≠ .recovery ∧ t.link.state = .fault ∧ ∃ code, t.faults = recorded s code) ∨
  (s.link.state = .fault ∧ t.link.state = .phyInit ∧
    ¬ (s.usb.inBusy = .csw ∧ s.now - s.link.stateEntry < Config.tCswFlush)) ∨
  (s.link.state = .recovery ∧ t.link.state = .phyInit)

/-- The fields that rule R275 latches from a CBW. -/
def SameCbw (a b : Ctx) : Prop :=
  a.tag = b.tag ∧ a.expectedLen = b.expectedLen ∧ a.direction = b.direction ∧ a.cdb = b.cdb ∧ a.lun = b.lun ∧
    a.cblen = b.cblen

/-- The commands whose chunks are programmed into the flash (rules R345, R348). -/
def flashCommand : Instr → Bool
  | .vendorE1_50 _ | .vendorE3_50 _ | .vendorE3_D0 _ => true
  | _ => false

end Sys2Proof.Machine
end

