-- ==== Sys2Proof/Certificates/Slice0/Obligations.lean ====
section
/-! DEFINITION. The statements for the provers. -/

open Sys2Proof Sys2Proof.Machine

/-! ## Decoding and encoding -/

/-- Words written out from rules R121, R128, R131 and R139: READ(10) of 16 blocks at LBA 0x100, 0xE4 of scenario S4,
GET_DESCRIPTOR(device), Flush with namespace 1. -/
def Obligations.DecodeWords : Prop :=
  decode (.cdb [0x28, 0x00, 0x00, 0x00, 0x01, 0x00, 0x00, 0x00, 0x10, 0x00]) = .ok (.read10 0x100 0x10) ∧
  decode (.cdb [0xE4, 0x04, 0x00, 0x91, 0x00]) = .ok (.vendorE4 4 0x009100) ∧
  decode (.setup [0x80, 0x06, 0x00, 0x01, 0x00, 0x00, 0x12, 0x00]) = .ok (.getDescriptor 1 0 0 0x12) ∧
  decode (.sqe .io ([0x00, 0x00, 0x07, 0x00, 0x01, 0x00, 0x00, 0x00] ++ List.replicate 56 0)) = .ok (.nvmeFlush 7 1)

/-- Decode and encode agree: no operand bit of any encoding is dropped. -/
def Obligations.DecodeEncode : Prop :=
  ∀ i : Instr, i.wf = true → decode (encode i) = .ok i

/-- Every 8-byte setup packet, and every submission entry that decodes, is the encoding of what it decodes to. That an entry
with a nonzero byte where rules R139 and R140 give zero does not decode is the model's choice (notes/assumptions/25.md). -/
def Obligations.EncodeDecode : Prop :=
  (∀ b : Bytes, b.length = 8 → encode (decodeSetup b) = .setup b) ∧
  (∀ (q : QueueId) (b : Bytes) (i : Instr), decode (.sqe q b) = .ok i → encode i = .sqe q b)

/-- What decodes is well formed: a catch-all row never takes an encoding that another row matches. -/
def Obligations.DecodedWellFormed : Prop :=
  ∀ (p : Packet) (i : Instr), decode p = .ok i → i.wf = true

/-! ## A step runs the decoded instruction -/

/-- At a bulk-OUT event in `DONE` with a valid CBW in `CTRLBUF` (31 bytes, signature 55 53 42 43, byte 14 from 1 to 16),
the step runs the instruction its CDB decodes to, in the state with the CBW's fields latched, bulk-OUT no longer armed
(notes/assumptions/45.md) and the sequencer past the event's handler. Who has the turn is the model's choice (notes/assumptions/9.md, 10.md). -/
def Obligations.StepRunsCdb : Prop :=
  ∀ (s u : State) (m : BitVec 8) (i : Instr), turn s u → s.seq.wait = none → s.seq.submit = none →
    s.seq.pos = .epServe m → epLut m = 2 → (s.link.state = .ready ∨ s.link.state = .resume) → s.usb.config ≠ 0 →
    s.ctx.state = .done → CbwValid s → decode (.cdb (cbwContext s).cdb) = .ok i →
    step s = exec i { u with seq := { s.seq with pos := .epClear 2 m }, ctx := cbwContext s,
                             usb := { s.usb with outArmed := .none, outTaken := 0 } }

/-- At a setup flag the step runs the request that the setup packet decodes to, with the sequencer past the setup phase.
Who has the turn is the model's choice (notes/assumptions/9.md, 10.md). -/
def Obligations.StepRunsSetup : Prop :=
  ∀ (s u : State) (i : Instr), turn s u → s.seq.wait = none → s.seq.submit = none →
    s.seq.pos = .ctlSetup → s.ev.ctlSetup = true → (s.link.state = .ready ∨ s.link.state = .resume) →
    decode (.setup s.ctl.setup) = .ok i → step s = exec i (goto .ctlData u)

/-- With a submission entry built, the step runs the command that the entry decodes to. That the entry waits in the state
between two steps is the model's choice (notes/assumptions/10.md, 24.md). -/
def Obligations.StepRunsEntry : Prop :=
  ∀ (s : State) (r : SubmitReq) (i : Instr), s.seq.wait = none → s.seq.submit = some r →
    decode (.sqe r.q r.entry) = .ok i → step s = exec i s

/-! ## Invariants of every step -/

/-- Every step keeps the memory's canonical form. The form is the model's (notes/assumptions/4.md). -/
def Obligations.MemoryKept : Prop :=
  ∀ s t : State, MemInv s → step s = .next t → MemInv t

/-- Every step keeps the pool at `K_MAX` slots with distinct ids among the slots in use. -/
def Obligations.CidsKept : Prop :=
  ∀ s t : State, CidInv s → step s = .next t → CidInv t

/-- Every step keeps the head and the expected phase of each completion queue what the entries consumed make them. -/
def Obligations.HeadsKept : Prop :=
  ∀ s t : State, HeadInv s → step s = .next t → HeadInv t

/-- Every step keeps the cached block size at 512 or 4096 once it has been read. -/
def Obligations.BlockSizeKept : Prop :=
  ∀ s t : State, BlockInv s → step s = .next t → BlockInv t

/-- The invariants hold right after reset. -/
def Obligations.ResetInvariants : Prop :=
  MemInv State.reset ∧ CidInv State.reset ∧ HeadInv State.reset ∧ BlockInv State.reset

/-! ## What a step may do -/

/-- The link state moves only by a row of the transition table and on its trigger, or to `OFF` by a power-on or hard
reset. -/
def Obligations.LinkTransitions : Prop :=
  ∀ s t : State, step s = .next t →
    t.link.state = s.link.state ∨ LinkMove s t ∨ (t.link.state = .off ∧ t.epoch = s.epoch + 1)

/-- The fields latched from a CBW change only when a valid CBW is accepted in `DONE`, then to the values its bytes give, or to
their reset values by a power-on or hard reset. -/
def Obligations.CbwFieldsConstant : Prop :=
  ∀ s t : State, step s = .next t →
    SameCbw t.ctx s.ctx ∨
    (s.ctx.state = .done ∧ CbwValid s ∧ SameCbw t.ctx (cbwContext s)) ∨
    (t.epoch = s.epoch + 1 ∧ t.ctx = Ctx.reset)

/-- No second CBW while a context is alive: `CTRLBUF` changes only by a power-on or hard reset, or in the step in which the host
offers a bulk-OUT transfer in `DONE` to an endpoint that is armed for a CBW, not halted, configured, connected and without a
pending event. Then the transfer's length and its first 31 bytes are in `CTRLBUF`, the endpoint is disarmed and its event set.
That the hardware answers NAK while the event is pending is notes/assumptions/11.md. -/
def Obligations.CbwTakenOnlyInDone : Prop :=
  ∀ s t : State, step s = .next t → (t.ctrlLen ≠ s.ctrlLen ∨ ∃ o, t.byte .ctrlbuf o ≠ s.byte .ctrlbuf o) →
    t.epoch = s.epoch + 1 ∨
    (s.ctx.state = .done ∧ s.usb.outArmed = .cbw ∧ s.usb.haltOut = false ∧ s.usb.config ≠ 0 ∧ s.usb.connected = true ∧
      s.ev.epMask.getLsbD 2 = false ∧
      ∃ b rest, s.env = .bulkOut b :: rest ∧
        t = { s with env := rest, ctrlLen := b.length, usb := { s.usb with outArmed := .none },
                     ev := { s.ev with epMask := s.ev.epMask ||| 0x04 }, mem := t.mem } ∧
        (∀ o, o < 31 → o < b.length → t.byte .ctrlbuf o = byteAt b o) ∧
        Changes s t (fun sp o => sp = .ctrlbuf ∧ o < 31 ∧ o < b.length))

/-- A byte of the flash changes only in the step that ends the wait for a bulk-OUT chunk of 0xE1 or 0xE3. -/
def Obligations.FlashWriters : Prop :=
  ∀ s t : State, step s = .next t → (∃ o, t.byte .flash o ≠ s.byte .flash o) →
    s.dma.done = true ∧ (∃ w n, s.seq.wait = some w ∧ w.resume = .rx n) ∧ flashCommand (decodeCdb s.ctx.cdb) = true

/-- The valid mark of the flash is set only by the commit command. -/
def Obligations.FirmwareValidOnlyByCommit : Prop :=
  ∀ s t : State, step s = .next t → s.fw.flashValid = false → t.fw.flashValid = true →
    decodeCdb t.ctx.cdb = .vendorE8_51 ∧ t.ctx.status = 0 ∧ t.ctx.afterCsw = .commitReset

/-! ## Reset, faults and the return from a fault -/

/-- What a power-on or hard reset leaves (rules R60 to R66): every stated value, whatever the state before. The values the
rules leave open are not in it, but the information of the cleared sense (notes/assumptions/41.md). -/
def Obligations.PowerOnValues : Prop :=
  ∀ s : State,
    let t := powerOn s
    t.link = { state := .off, phyReady := false, pcieLinkUp := false, usbEnumerated := false, suspended := false,
               retryCounter := 0, timeoutCounter := 0, stateEntry := s.now } ∧
    t.ctx = { state := .done, tag := 0, expectedLen := 0, actual := 0, lun := 0, cdb := List.replicate 16 0,
              direction := .dirNone, cblen := 0, cmdDir := .dirNone, cmdLen := 0, status := 0, chunkIdx := 0, lba := 0,
              blocksLeft := 0, afterCsw := .nothing } ∧
    t.sense = { key := 0, asc := 0, ascq := 0, info := 0, infoValid := false } ∧
    t.usb.connected = false ∧ t.usb.address = 0 ∧ t.usb.config = 0 ∧ t.usb.haltIn = false ∧ t.usb.haltOut = false ∧
    t.usb.botResetRequired = false ∧ t.usb.outArmed = .none ∧ t.usb.inBusy = .none ∧
    t.ctl.phase = .idle ∧ t.ctl.setup = [0, 0, 0, 0, 0, 0, 0, 0] ∧ t.ctl.reply = [] ∧ t.ctl.pendingAddress = none ∧
    t.ctl.pendingAction = .none ∧
    t.ev.epMask = 0 ∧ t.ev.ctlSetup = false ∧ t.ev.ctlData = false ∧ t.ev.ctlStatus = false ∧
    t.ev.sysLinkChange = false ∧ t.ev.sysCqeReady = false ∧ t.ev.sysTimer = false ∧ t.ev.sysError = false ∧
    t.ev.usbSuspend = false ∧ t.ev.usbResume = false ∧ t.ev.usbBusReset = false ∧ t.ev.tickPending = false ∧
    t.ev.resetRequested = false ∧ t.ev.linkIsUp = false ∧ t.seq.wait = none ∧
    (∀ q, (t.nvme.queue q).sqTail.val = 0 ∧ (t.nvme.queue q).cqHead.val = 0 ∧ (t.nvme.queue q).cqPhase = true ∧
      (t.nvme.queue q).consumed = 0 ∧ ∀ o, t.byte (.sq q) o = 0 ∧ t.byte (.cq q) o = 0) ∧
    t.nvme.ioCreated = false ∧ t.nvme.nextCid = 0 ∧ t.nvme.slots.length = 8 ∧ (∀ x ∈ t.nvme.slots, x.inUse = false) ∧
    t.nvme.init = .idle ∧ t.nvme.identified = false ∧ t.nvme.nsSize = 0 ∧ t.nvme.blockSize = 0 ∧
    t.dma = { busy := false, done := false, len := 0, ptr := 0, dir := .rx, moved := 0 } ∧
    t.ctrlLen = 0 ∧ t.usbOut = [] ∧ t.usbIn = [] ∧
    t.fw = { cursor1 := 0, cursor2 := 0, staged := false, flashValid := s.fw.flashValid } ∧
    t.faults = { recs := List.replicate 8 { state := .off, elapsed := 0, code := .empty }, wr := 0, count := 0 } ∧
    ∀ o, t.byte .flash o = s.byte .flash o

/-- Taking a fault. In `FAULT` and `RECOVERY` only the record is appended. Elsewhere: the record, the command in flight
failed with HARDWARE ERROR and its CSW handed over, the link machine in `FAULT`; with no command before its CSW the context
is left as it is. In both the sequencer goes to the start of an iteration. That the information of the new sense is 0 is the
model's choice (notes/assumptions/41.md), and that with configuration 0 bulk-OUT is not armed to drop what is owed its reading
of rule R249 (42.md). -/
def Obligations.FaultEntry : Prop :=
  ∀ (s : State) (code : FaultCode),
    let t := raiseFault code s
    t.faults = recorded s code ∧ t.seq = { pos := .top, wait := none, submit := none } ∧
    (if s.link.state = .fault ∨ s.link.state = .recovery then t = { s with faults := t.faults, seq := t.seq }
    else
      t.link = { s.link with state := .fault, stateEntry := s.now, timeoutCounter := 0 } ∧
      (if s.ctx.state = .receivingCbw ∨ s.ctx.state = .awaitingData ∨ s.ctx.state = .executing ∨
          s.ctx.state = .sendingData then
        Ended { s with faults := t.faults, link := t.link, seq := t.seq,
                       dma := { s.dma with busy := false, done := false, len := 0, moved := 0 } } t
          { s.ctx with afterCsw := .nothing } { key := 4, asc := 0, ascq := 0, info := 0, infoValid := false }
          (orphaned s.nvme) 1 ∧ Changes s t inCsw
      else t = { s with faults := t.faults, link := t.link, seq := t.seq }))

/-- The link tick in `FAULT`: while a CSW is out and `T_csw_flush` has not passed nothing changes; else the state after it
is that of a recovery, with what it clears and what it keeps, and the link reset register has taken the pattern. That all of
`ctl` is cleared is the reading of notes/assumptions/33.md; that the buffers keep their bytes, that the doorbell registers and
the other fields of the free slots have their reset values, and that the link reset register holds the last byte written, are the
model's choices (notes/assumptions/40.md, 7.md, 6.md, 17.md). That the register bytes are kept is the spec's word, with the PHY
list applied as rule R194 allows (16.md); the model's own fields are kept (18.md). -/
def Obligations.FaultReturn : Prop :=
  ∀ s : State, s.link.state = .fault →
    if s.usb.inBusy = .csw ∧ s.now - s.link.stateEntry < Config.tCswFlush then linkTick s = s
    else
      let t := linkTick s
      t = { s with
        link := { state := .phyInit, phyReady := false, pcieLinkUp := false, usbEnumerated := false, suspended := false,
                  retryCounter := 0, timeoutCounter := 0, stateEntry := s.now }
        usb := Usb.reset, usbIn := [], usbOut := []
        ctl := Ctl.reset
        ctx := { s.ctx with state := .done, afterCsw := .nothing }
        dma := { s.dma with busy := false, done := false, len := 0, moved := 0 }
        nvme := Nvme.reset
        fw := { s.fw with cursor1 := 0, cursor2 := 0 }
        ev := { s.ev with ctlSetup := false, ctlData := false, ctlStatus := false, epMask := 0 }
        phy := { s.phy with linkReset := match Config.linkResetPattern.getLast? with
          | some x => x.2
          | none => s.phy.linkReset }
        mem := t.mem } ∧
      (∀ q o, t.byte (.sq q) o = 0 ∧ t.byte (.cq q) o = 0) ∧
      Changes s t (fun sp _ => ∃ q, sp = .sq q ∨ sp = .cq q)

/-- The endpoint lookup table: 8 for the empty mask, else the least index whose bit is set. -/
def Obligations.EndpointLookup : Prop :=
  epLut 0 = 8 ∧
  ∀ m : BitVec 8, m ≠ 0 → epLut m < 8 ∧ m.getLsbD (epLut m) = true ∧ ∀ j, j < epLut m → m.getLsbD j = false

/-- The bring-up ticks: `OFF` applies the PHY list and goes to `PHY_INIT`, readiness wins over the time-out in `PHY_INIT` and
in `LINK_TRAIN`, each time-out does what its rule says, the first tick of `TUNNEL_CFG` starts the NVMe bring-up, and
`TUNNEL_CFG` goes on when that has ended. That the list acts only on `RW` addresses of the backing array and that the
Identify entry waits in the state are the model's choices (notes/assumptions/16.md, 24.md); `race` is the model's own field,
what hardware did during the list's accesses (notes/assumptions/43.md). What a fault does is the statement `FaultEntry`. -/
def Obligations.BringUpTicks : Prop :=
  ∀ s : State,
    (s.link.state = .off →
      let t := linkTick s
      t = { s with link := { s.link with state := .phyInit, retryCounter := 0, stateEntry := s.now, timeoutCounter := 0 },
                   mem := t.mem, race := t.race } ∧
      Changes s t (fun sp _ => sp = .reg) ∧
      ∀ a : BitVec 16, t.byte .reg a.toNat = rmwByteAt Config.phyInitList a (s.byte .reg a.toNat)) ∧
    (s.link.state = .phyInit → s.phy.rdyA = true → s.phy.rdyB = true →
      linkTick s = { s with
        link := { s.link with state := .linkTrain, phyReady := true, retryCounter := 0, stateEntry := s.now, timeoutCounter := 0 }
        phy := { s.phy with tunByteEn := 0xFF, tunLaneMap := Config.laneMap, tunCtrl := (linkTick s).phy.tunCtrl }
        race := (linkTick s).race } ∧
      (linkTick s).phy.tunCtrl.getLsbD (Config.bitPos .bridgeEn).val = true ∧
      ∀ j, j < 8 → j ≠ (Config.bitPos .bridgeEn).val → (linkTick s).phy.tunCtrl.getLsbD j = s.phy.tunCtrl.getLsbD j) ∧
    (s.link.state = .phyInit → (s.phy.rdyA && s.phy.rdyB) = false → s.now - s.link.stateEntry < Config.tPhyReady →
      linkTick s = s) ∧
    (s.link.state = .phyInit → (s.phy.rdyA && s.phy.rdyB) = false → Config.tPhyReady ≤ s.now - s.link.stateEntry →
      s.link.retryCounter + 1 < 3 →
      linkTick s = { s with link := { s.link with retryCounter := s.link.retryCounter + 1, stateEntry := s.now,
                                                  timeoutCounter := 0 } }) ∧
    (s.link.state = .phyInit → (s.phy.rdyA && s.phy.rdyB) = false → Config.tPhyReady ≤ s.now - s.link.stateEntry →
      3 ≤ s.link.retryCounter + 1 →
      linkTick s = raiseFault .phyTimeout { s with link := { s.link with retryCounter := s.link.retryCounter + 1 } }) ∧
    (s.link.state = .linkTrain → s.phy.tunComplete = true →
      linkTick s = { s with link := { s.link with state := .tunnelCfg, pcieLinkUp := true, stateEntry := s.now,
                                                  timeoutCounter := 0 } }) ∧
    (s.link.state = .linkTrain → s.phy.tunComplete = false → Config.tLinkTrain ≤ s.now - s.link.stateEntry →
      linkTick s = raiseFault .tunnelTimeout s) ∧
    (s.link.state = .linkTrain → s.phy.tunComplete = false → s.now - s.link.stateEntry < Config.tLinkTrain →
      linkTick s = s) ∧
    (s.link.state = .tunnelCfg → s.nvme.init = .idle →
      InitSubmits s (linkTick s) .idCtrl (.identify 0 0 Config.stagingPcieAddr 1 0)) ∧
    (s.link.state = .tunnelCfg → (s.nvme.init = .idCtrl ∨ s.nvme.init = .idNs ∨ s.nvme.init = .createCq ∨
      s.nvme.init = .createSq) → linkTick s = s) ∧
    (s.link.state = .tunnelCfg → (s.nvme.init = .done ∨ s.nvme.init = .failed) →
      linkTick s = { s with usb := { s.usb with connected := true },
                            link := { s.link with state := .ready, stateEntry := s.now, timeoutCounter := 0 } })

/-- Suspend is entered from `READY` only with no command in flight and applies the clock-gate list; resume leaves it and
applies the inverse, the same addresses and masks in reverse order with `set` complemented; and `RESUME` ends with the clocks
or with its time-out, and waits before it. That a slot of the context counts only while it is in use is the model's reading
(notes/assumptions/19.md), that the lists act only on `RW` addresses of the backing array, those of the timer/CPU region
among them, is its choice (16.md), and `race` is its own field (43.md). What a fault does is the statement `FaultEntry`. -/
def Obligations.SuspendResume : Prop :=
  ∀ s : State,
    (s.link.state = .ready → s.ctx.state = .done → ctxOutstanding s = false →
      let t := usbSuspend s
      t = { s with link := { s.link with state := .suspend, suspended := true, stateEntry := s.now, timeoutCounter := 0 },
                   ev := { s.ev with usbSuspend := false }, mem := t.mem, race := t.race } ∧
      Changes s t (fun sp _ => sp = .reg) ∧
      ∀ a : BitVec 16, t.byte .reg a.toNat = rmwByteAt Config.clockGateList a (s.byte .reg a.toNat)) ∧
    (s.link.state = .ready → (s.ctx.state ≠ .done ∨ ctxOutstanding s = true) → usbSuspend s = s) ∧
    (s.link.state ≠ .ready → usbSuspend s = { s with ev := { s.ev with usbSuspend := false } }) ∧
    (s.link.state = .suspend →
      let t := usbResume s
      t = { s with link := { s.link with state := .resume, stateEntry := s.now, timeoutCounter := 0 },
                   ev := { s.ev with usbResume := false }, mem := t.mem, race := t.race } ∧
      Changes s t (fun sp _ => sp = .reg) ∧
      ∀ a : BitVec 16, t.byte .reg a.toNat =
        rmwByteAt (Config.clockGateList.reverse.map fun x => (x.1, x.2.1, ~~~x.2.2)) a (s.byte .reg a.toNat)) ∧
    (s.link.state ≠ .suspend → usbResume s = { s with ev := { s.ev with usbResume := false } }) ∧
    (s.link.state = .resume → s.phy.clocksOn = true →
      linkTick s = { s with link := { s.link with state := .ready, suspended := false, stateEntry := s.now,
                                                  timeoutCounter := 0 } }) ∧
    (s.link.state = .resume → s.phy.clocksOn = false → Config.tResume ≤ s.now - s.link.stateEntry →
      linkTick s = raiseFault .resumeTimeout s) ∧
    (s.link.state = .resume → s.phy.clocksOn = false → s.now - s.link.stateEntry < Config.tResume → linkTick s = s)

/-! ## The bus and system events -/

/-- The events outside the commands.
A USB bus reset clears the USB state and the context in `READY`, `SUSPEND` and `RESUME`, wakes a suspended link, and is
ignored elsewhere. `LINK_CHANGE` is a fault where the link is lost in `TUNNEL_CFG`, `READY`, `SUSPEND` or `RESUME`. `ERROR` is a
fault but in `OFF`, `FAULT` and `RECOVERY`. The reset request ends a command in flight with a phase error, its CSW handed over
where bulk-IN is free, and is a fault in every case. What a fault does is the statement `FaultEntry`.
That a bus reset clears all of `ctl` is the reading of notes/assumptions/33.md, that it keeps the buffers' bytes is the model's
choice (40.md), and that `ERROR` in `FAULT` leaves no record is its reading (21.md). -/
def Obligations.BusAndSystemEvents : Prop :=
  ∀ s : State,
    let cleared := { s with
      ctx := { s.ctx with state := .done, afterCsw := .nothing }
      usb := { s.usb with address := 0, config := 0, haltIn := false, haltOut := false, botResetRequired := false,
                          outArmed := .none, inBusy := .none, outTaken := 0, ep0Stalled := false }
      link := { s.link with usbEnumerated := false }
      usbIn := [], usbOut := []
      ctl := Ctl.reset
      dma := { s.dma with busy := false, done := false, len := 0, moved := 0 }
      nvme := orphaned s.nvme
      ev := { s.ev with usbBusReset := false, ctlSetup := false, ctlData := false, ctlStatus := false, epMask := 0 } }
    (s.link.state = .ready ∨ s.link.state = .resume → busReset s = cleared) ∧
    (s.link.state = .suspend → busReset s = { cleared with ev := { cleared.ev with usbResume := true } }) ∧
    (s.link.state ≠ .ready → s.link.state ≠ .resume → s.link.state ≠ .suspend →
      busReset s = { s with ev := { s.ev with usbBusReset := false } }) ∧
    (linkChange s =
      if s.ev.linkIsUp = false ∧ s.link.pcieLinkUp = true ∧ (s.link.state = .tunnelCfg ∨ s.link.state = .ready ∨
          s.link.state = .suspend ∨ s.link.state = .resume) then
        raiseFault .linkDown { s with ev := { s.ev with sysLinkChange := false } }
      else { s with ev := { s.ev with sysLinkChange := false } }) ∧
    (hwError s =
      if s.link.state = .off ∨ s.link.state = .fault ∨ s.link.state = .recovery then
        { s with ev := { s.ev with sysError := false } }
      else raiseFault .hwError { s with ev := { s.ev with sysError := false } }) ∧
    (s.ctx.state = .done ∨ s.ctx.state = .stalled →
      cancel s = raiseFault .resetRequested { s with ev := { s.ev with resetRequested := false } }) ∧
    (s.ctx.state ≠ .done → s.ctx.state ≠ .stalled →
      let free := s.usb.inBusy = .none ∧ s.usb.haltIn = false
      ∃ v, cancel s = raiseFault .resetRequested v ∧
        v = { s with
          ev := { s.ev with resetRequested := false }
          ctx := { s.ctx with status := 2, state := .stalled, afterCsw := .haltBoth }
          nvme := orphaned s.nvme
          dma := { s.dma with busy := false, done := false, len := 0, moved := 0 }
          usb := { s.usb with haltOut := true, botResetRequired := true, outArmed := .none
                              inBusy := if free then .csw else s.usb.inBusy
                              outTaken := if free then 0 else s.usb.outTaken }
          usbOut := []
          usbIn := if free then s.usbIn ++ [cswOf s.ctx 2] else s.usbIn
          mem := v.mem } ∧
        (free → ∀ i, i < 13 → v.byte .cswbuf i = byteAt (cswOf s.ctx 2) i) ∧
        Changes s v (fun sp o => free ∧ inCsw sp o))

/-! ## Ends of a command that several instructions share -/

/-- A CDB command whose checks pass and whose phase check fails ends with CSW status 2, ILLEGAL REQUEST, and both
endpoints to be halted after the CSW; no byte of memory but the CSW's changes. That the information of the new sense is 0 is
the model's choice (notes/assumptions/41.md). -/
def Obligations.PhaseErrorEnds : Prop :=
  ∀ (i : Instr) (s : State) (dir : Dir) (len : Nat), needs i s = some (dir, len) → ¬ phaseOk s dir len →
    ∃ t, exec i s = .next t ∧
      Ended s t { decoded i s dir len with afterCsw := .haltBoth }
        { key := 5, asc := 0x24, ascq := 0, info := 0, infoValid := false } s.nvme 2 ∧
      Changes s t inCsw

/-- A command that needs the namespace and finds `Ready()` false, and 0xE6 without the link, ends NOT READY. That the
information of the new sense is 0 is the model's choice (notes/assumptions/41.md). -/
def Obligations.NotReadyEnds : Prop :=
  ∀ (i : Instr) (s : State),
    ((∃ lba n, i = .read10 lba n ∨ i = .write10 lba n) ∨ i = .readCapacity10 ∨ i = .synchronizeCache) ∧ ready s = false ∨
    (∃ rest, i = .vendorE6_02 rest ∨ i = .vendorE6_06 rest) ∧ (s.link.state ≠ .ready ∨ s.link.pcieLinkUp = false) →
    ∃ t, exec i s = .next t ∧ Failed s t { key := 2, asc := 4, ascq := 0, info := 0, infoValid := false }

/-- A vendor command error: the command ends FAILED with the sense kept and nothing but the CSW written. For the five
catch-all rows this is the instruction's one effect. -/
def Obligations.VendorErrorEnds : Prop :=
  ∀ (i : Instr) (s : State),
    (∃ sub, i = .vendorE0BadSub sub ∨ i = .vendorE1BadSub sub ∨ i = .vendorE3BadSub sub ∨ i = .vendorE6BadSub sub ∨
      i = .vendorE8BadSub sub) ∨
    (∃ n, (i = .vendorE0_50 n ∨ i = .vendorE1_50 n) ∧ 1 < n.toNat) ∨
    (∃ n, i = .vendorE2 n ∧ 4096 < n.toNat) ∨
    (∃ n, i = .vendorE3_50 n ∧ 0x10000 < 0x80 + s.fw.cursor1.toNat + n.toNat) ∨
    (∃ n, i = .vendorE3_D0 n ∧ Config.flashSize < 0x10000 + s.fw.cursor2.toNat + n.toNat) ∨
    (∃ n a, i = .vendorE4 n a ∧ (64 < n.toNat ∨ 0xFFFF < a.toNat ∨ 0x10000 < a.toNat + n.toNat)) ∨
    (∃ v a, i = .vendorE5 v a ∧ 0xFFFF < a.toNat) →
    ∃ t, exec i s = .next t ∧ Failed s t s.sense

/-- INQUIRY with EVPD, a READ(10) or WRITE(10) past the last block, and an unlisted opcode end with their own ILLEGAL
REQUEST sense. For the unlisted opcode this is the instruction's one effect. That the information of the new sense is 0 is
the model's choice (notes/assumptions/41.md). -/
def Obligations.IllegalRequestEnds : Prop :=
  (∀ (s : State) (op : BitVec 8), ∃ t, exec (.illegalOpcode op) s = .next t ∧
    Failed s t { key := 5, asc := 0x20, ascq := 0, info := 0, infoValid := false }) ∧
  (∀ (s : State) (page : BitVec 8) (alloc : BitVec 16), ∃ t, exec (.inquiry true page alloc) s = .next t ∧
    Failed s t { key := 5, asc := 0x24, ascq := 0, info := 0, infoValid := false }) ∧
  (∀ (s : State) (lba : BitVec 32) (n : BitVec 16) (i : Instr), i = .read10 lba n ∨ i = .write10 lba n → ready s = true →
    s.nvme.nsSize.toNat < lba.toNat + n.toNat → ∃ t, exec i s = .next t ∧
    Failed s t { key := 5, asc := 0x21, ascq := 0, info := 0, infoValid := false })

/-! ## The standard SCSI commands -/

/-- TEST UNIT READY: PASSED where `Ready()`, else NOT READY; with no data no phase error can arise. That the information of
the new sense is 0 is the model's choice (notes/assumptions/41.md). -/
def Obligations.TestUnitReady : Prop :=
  ∀ s : State, ∃ t, exec .testUnitReady s = .next t ∧ Changes s t inCsw ∧
    (if s.link.state = .ready ∧ s.nvme.identified = true then
      Ended s t { s.ctx with cmdDir := .dirNone, cmdLen := 0 } s.sense s.nvme 0
    else Ended s t { s.ctx with cmdDir := .dirNone, cmdLen := 0 }
      { key := 2, asc := 4, ascq := 0, info := 0, infoValid := false } (orphaned s.nvme) 1)

/-- REQUEST SENSE: the 18 bytes of the sense record in `STAGING`, at most `alloc` of them sent, the record cleared. -/
def Obligations.RequestSense : Prop :=
  ∀ (s : State) (alloc : BitVec 8), phaseOk s .dirIn (min 18 alloc.toNat) →
    ∃ t, exec (.requestSense alloc) s = .next t ∧
      Answered { s with sense := { key := 0, asc := 0, ascq := 0, info := 0, infoValid := false } } t
        { s.ctx with cmdDir := .dirIn, cmdLen := BitVec.ofNat 64 (min 18 alloc.toNat) } (min 18 alloc.toNat)
        ([if s.sense.infoValid then 0xF0 else 0x70, 0x00, s.sense.key.setWidth 8] ++ putBE32 s.sense.info ++
          [0x0A, 0, 0, 0, 0, s.sense.asc, s.sense.ascq, 0, 0, 0, 0]) ∧
      Changes s t (answerBytes (min 18 alloc.toNat) 18)

/-- INQUIRY without EVPD: the 36 standard bytes, at most `alloc` of them sent. -/
def Obligations.Inquiry : Prop :=
  ∀ (s : State) (page : BitVec 8) (alloc : BitVec 16), phaseOk s .dirIn (min 36 alloc.toNat) →
    ∃ t, exec (.inquiry false page alloc) s = .next t ∧
      Answered s t { s.ctx with cmdDir := .dirIn, cmdLen := BitVec.ofNat 64 (min 36 alloc.toNat) } (min 36 alloc.toNat)
        [0x00, 0x00, 0x06, 0x02, 0x1F, 0x00, 0x00, 0x00, 0x41, 0x73, 0x6D, 0x65, 0x64, 0x69, 0x61, 0x20,
         0x41, 0x53, 0x4D, 0x32, 0x34, 0x36, 0x34, 0x50, 0x44, 0x20, 0x20, 0x20, 0x20, 0x20, 0x20, 0x20,
         0x20, 0x20, 0x20, 0x20] ∧
      Changes s t (answerBytes (min 36 alloc.toNat) 36)

/-- MODE SENSE(6): the 24 bytes with the caching page, for every page and page control. -/
def Obligations.ModeSense : Prop :=
  ∀ (s : State) (pc : BitVec 2) (page : BitVec 6) (alloc : BitVec 8), phaseOk s .dirIn (min 24 alloc.toNat) →
    ∃ t, exec (.modeSense6 pc page alloc) s = .next t ∧
      Answered s t { s.ctx with cmdDir := .dirIn, cmdLen := BitVec.ofNat 64 (min 24 alloc.toNat) } (min 24 alloc.toNat)
        ([0x17, 0x00, 0x00, 0x00, 0x08, 0x12, 0x04] ++ List.replicate 17 0x00) ∧
      Changes s t (answerBytes (min 24 alloc.toNat) 24)

/-- READ CAPACITY(10): the last LBA, at most 0xFFFFFFFF, and the block size; the namespace is not empty. -/
def Obligations.ReadCapacity : Prop :=
  ∀ s : State, ready s = true → s.nvme.nsSize ≠ 0 → phaseOk s .dirIn 8 →
    ∃ t, exec .readCapacity10 s = .next t ∧
      Answered s t { s.ctx with cmdDir := .dirIn, cmdLen := 8 } 8
        (putBE32 (BitVec.ofNat 32 (min (s.nvme.nsSize.toNat - 1) 0xFFFFFFFF)) ++ putBE32 s.nvme.blockSize) ∧
      Changes s t (answerBytes 8 8)

/-- REPORT LUNS: the list of LUN 0. -/
def Obligations.ReportLuns : Prop :=
  ∀ (s : State) (alloc : BitVec 32), phaseOk s .dirIn (min 16 alloc.toNat) →
    ∃ t, exec (.reportLuns alloc) s = .next t ∧
      Answered s t { s.ctx with cmdDir := .dirIn, cmdLen := BitVec.ofNat 64 (min 16 alloc.toNat) } (min 16 alloc.toNat)
        ([0x00, 0x00, 0x00, 0x08] ++ List.replicate 12 0x00) ∧
      Changes s t (answerBytes (min 16 alloc.toNat) 16)

/-- READ(10) in range: PASSED at once for no blocks, else the NVMe Read of the first chunk is built for the I/O queue. That the
entry waits in `seq.submit` and is issued by the next step is the model's choice (notes/assumptions/10.md, 24.md). -/
def Obligations.Read10 : Prop :=
  ∀ (s : State) (lba : BitVec 32) (n : BitVec 16), ready s = true → lba.toNat + n.toNat ≤ s.nvme.nsSize.toNat →
    (s.nvme.blockSize = 512 ∨ s.nvme.blockSize = 4096) → phaseOk s .dirIn (n.toNat * s.nvme.blockSize.toNat) →
    ∃ t, exec (.read10 lba n) s = .next t ∧
      let c := { s.ctx with cmdDir := .dirIn, cmdLen := BitVec.ofNat 64 (n.toNat * s.nvme.blockSize.toNat),
                            lba := lba.setWidth 64, blocksLeft := n.setWidth 32 }
      if n = 0 then Ended s t c s.sense s.nvme 0 ∧ Changes s t inCsw
      else Submits s t c .io (.nvmeRead 0 Config.nsid Config.stagingPcieAddr (lba.setWidth 64)
        (BitVec.ofNat 16 (min (4096 / s.nvme.blockSize.toNat) n.toNat - 1)))

/-- WRITE(10) in range: the first chunk is asked of the host, PASSED at once for no blocks. With
configuration 0 nothing is armed (notes/assumptions/42.md). -/
def Obligations.Write10 : Prop :=
  ∀ (s : State) (lba : BitVec 32) (n : BitVec 16), ready s = true → lba.toNat + n.toNat ≤ s.nvme.nsSize.toNat →
    s.ctx.actual = 0 → phaseOk s .dirOut (n.toNat * s.nvme.blockSize.toNat) →
    ∃ t, exec (.write10 lba n) s = .next t ∧
      Asked s t { s.ctx with cmdDir := .dirOut, cmdLen := BitVec.ofNat 64 (n.toNat * s.nvme.blockSize.toNat),
                             lba := lba.setWidth 64, blocksLeft := n.setWidth 32 } (n.toNat * s.nvme.blockSize.toNat)

/-- SYNCHRONIZE CACHE: one Flush is built for the I/O queue; with no data no phase error can arise. That the
entry waits in `seq.submit` and is issued by the next step is the model's choice (notes/assumptions/10.md, 24.md). -/
def Obligations.SynchronizeCache : Prop :=
  ∀ s : State, ready s = true →
    ∃ t, exec .synchronizeCache s = .next t ∧
      Submits s t { s.ctx with cmdDir := .dirNone, cmdLen := 0 } .io (.nvmeFlush 0 Config.nsid)

/-! ## The vendor commands -/

/-- 0xE0 0x50 and 0xE2: the flash bytes in `STAGING`, sent to the host; where the driver fails the read the command ends FAILED
with the sense kept and nothing in memory changed but the CSW. That the driver's success is the field `flashOk` is the
model's choice (notes/assumptions/28.md). -/
def Obligations.FlashReads : Prop :=
  (∀ (s : State) (n : BitVec 8), n.toNat ≤ 1 → phaseOk s .dirIn 128 →
    ∃ t, exec (.vendorE0_50 n) s = .next t ∧
      let c := { s.ctx with cmdDir := .dirIn, cmdLen := 128 }
      if s.flashOk = true then
        Answered s t c 128 ((List.range 128).map fun i => s.byte .flash (128 * n.toNat + i)) ∧
        Changes s t (answerBytes 128 128)
      else Ended s t c s.sense (orphaned s.nvme) 1 ∧ Changes s t inCsw) ∧
  (∀ (s : State) (n : BitVec 32), n.toNat ≤ 4096 → phaseOk s .dirIn n.toNat →
    ∃ t, exec (.vendorE2 n) s = .next t ∧
      let c := { s.ctx with cmdDir := .dirIn, cmdLen := n.setWidth 64 }
      if n = 0 ∨ s.flashOk = true then
        Answered s t c n.toNat ((List.range n.toNat).map fun i => s.byte .flash i) ∧
        Changes s t (answerBytes n.toNat n.toNat)
      else Ended s t c s.sense (orphaned s.nvme) 1 ∧ Changes s t inCsw)

/-- 0xE1 0x50, 0xE3 0x50 and 0xE3 0xD0 in range: the first chunk is asked of the host, PASSED at once for no bytes. With
configuration 0 nothing is armed (notes/assumptions/42.md). -/
def Obligations.FlashWritesAsk : Prop :=
  ∀ (i : Instr) (s : State) (len : Nat),
    (∃ n, i = .vendorE1_50 n ∧ n.toNat ≤ 1 ∧ len = 128) ∨
    (∃ n, i = .vendorE3_50 n ∧ 0x80 + s.fw.cursor1.toNat + n.toNat ≤ 0x10000 ∧ len = n.toNat) ∨
    (∃ n, i = .vendorE3_D0 n ∧ 0x10000 + s.fw.cursor2.toNat + n.toNat ≤ Config.flashSize ∧ len = n.toNat) →
    s.ctx.actual = 0 → phaseOk s .dirOut len →
    ∃ t, exec i s = .next t ∧ Asked s t { s.ctx with cmdDir := .dirOut, cmdLen := BitVec.ofNat 64 len } len

/-- 0xE4 in range: each register of the window is read once, in ascending order; a read changes only a read-side-effect
address, once, and `free` counts the reads. That a read-side-effect address of no role changes only its own byte, to what
`Config.rseNext` makes of it, and the counter `free`, are the model's choices (notes/assumptions/15.md, 18.md). -/
def Obligations.RegisterRead : Prop :=
  ∀ (s : State) (size : BitVec 8) (addr : BitVec 24), size.toNat ≤ 64 → addr.toNat ≤ 0xFFFF →
    addr.toNat + size.toNat ≤ 0x10000 → phaseOk s .dirIn size.toNat →
    ∃ t, exec (.vendorE4 size addr) s = .next t ∧
      Answered { s with free := s.free + size.toNat } t { s.ctx with cmdDir := .dirIn, cmdLen := size.setWidth 64 }
        size.toNat
        ((List.range size.toNat).map fun i =>
          regReadVal (BitVec.ofNat 16 (addr.toNat + i)) { s with free := s.free + i }) ∧
      Changes s t (fun sp o => answerBytes size.toNat size.toNat sp o ∨
        (sp = .reg ∧ addr.toNat ≤ o ∧ o < addr.toNat + size.toNat ∧ target (BitVec.ofNat 16 o) = .plain ∧
          Config.policy (BitVec.ofNat 16 o) = .rse)) ∧
      ∀ o, addr.toNat ≤ o → o < addr.toNat + size.toNat → target (BitVec.ofNat 16 o) = .plain →
        Config.policy (BitVec.ofNat 16 o) = .rse →
        t.byte .reg o = Config.rseNext (BitVec.ofNat 16 o) (s.byte .reg o)

/-- 0xE5 in range: exactly one register write, then PASSED; the write of 0xA5 to the CPU reset register resets the block
and no CSW is sent. -/
def Obligations.RegisterWrite : Prop :=
  ∀ (s : State) (value : BitVec 8) (addr : BitVec 24), addr.toNat ≤ 0xFFFF →
    ∃ t, exec (.vendorE5 value addr) s = .next t ∧
      let c := { s.ctx with cmdDir := .dirNone, cmdLen := 0 }
      if target (addr.extractLsb' 0 16) = .role .cpuReset ∧ value = 0xA5 then
        t = powerOn s
      else
        let u := regWrite (addr.extractLsb' 0 16) value { s with ctx := c }
        Ended u t c s.sense u.nvme 0 ∧ Changes u t inCsw

/-- The law of the register space. A byte written to an address of class `RW` is read back there, and a write to a read-only
address keeps the whole state. A role's address selects that role and has its class. A write to an address of the backing
array changes that one byte of the state, and a read after it answers by the class. The one-clear endpoint register clears
the written ones, and `USB_EP_STALL` takes both halts. A read-modify-write of an address of class `RW` leaves the bits of `mask` as `set` has them
and the others as they were read, whatever the hardware did between its halves. The classes `WSE`, `RSE` and `W1C` of an address
of no role are the model's choice (notes/assumptions/15.md), as are the field that holds the unnamed bits of `USB_EP_STALL`
and `DMA_DIR` (18.md) and the schedule `race` of what hardware does between the halves (43.md). -/
def Obligations.RegisterLaw : Prop :=
  (∀ (s : State) (a : BitVec 16) (v : BitVec 8), policyOf a = .rw → regReadVal a (regWrite a v s) = v) ∧
  (∀ (s : State) (a : BitVec 16) (v : BitVec 8), policyOf a = .ro → regWrite a v s = s) ∧
  (∀ r, target (Role.addr r) = .role r ∧ policyOf (Role.addr r) = Role.cls r) ∧
  (∀ (s : State) (a : BitVec 16) (v : BitVec 8), target a = .plain →
    Changes s (regWrite a v s) (fun sp o => sp = .reg ∧ o = a.toNat) ∧
    regWrite a v s = { s with mem := (regWrite a v s).mem } ∧
    regReadVal a (regWrite a v s) = match Config.policy a with
      | .rw => v
      | .ro => s.byte .reg a.toNat
      | .w1c => s.byte .reg a.toNat &&& ~~~v
      | .wse | .rse => Config.wseNext a (s.byte .reg a.toNat) v
      | .unmapped => Config.unmappedByte s.free) ∧
  (∀ (s : State) (v : BitVec 8),
    regWrite (Role.addr .usbEpClear) v s = { s with ev := { s.ev with epMask := s.ev.epMask &&& ~~~v } } ∧
    (regWrite (Role.addr .usbEpStall) v s).usb.haltIn = v.getLsbD (Config.bitPos .haltIn).val ∧
    (regWrite (Role.addr .usbEpStall) v s).usb.haltOut = v.getLsbD (Config.bitPos .haltOut).val ∧
    (regWrite (Role.addr .dmaDir) v s).dma.dir = (if v.getLsbD 0 then .tx else .rx)) ∧
  (∀ (s : State) (a : BitVec 16) (mask set : BitVec 8), policyOf a = .rw →
    regReadVal a (regRmw a mask set s) = (regReadVal a s &&& ~~~mask) ||| (set &&& mask) ∧
    Changes s (regRmw a mask set s) (fun sp o => sp = .reg ∧ o = a.toNat) ∧
    (regRmw a mask set s).race = s.race.tail)

/-- 0xE6 with the link up: the admin command of its parameters is built for queue 0. That the
entry waits in `seq.submit` and is issued by the next step is the model's choice (notes/assumptions/10.md, 24.md). -/
def Obligations.AdminPassthrough : Prop :=
  ∀ (s : State) (rest : BitVec 112), s.link.state = .ready → s.link.pcieLinkUp = true →
    (phaseOk s .dirIn (Config.e6Len rest).val → ∃ t, exec (.vendorE6_02 rest) s = .next t ∧
      Submits s t { s.ctx with cmdDir := .dirIn, cmdLen := BitVec.ofNat 64 (Config.e6Len rest).val } .admin
        (.getLogPage 0 (Config.e6Nsid 0x02 rest) Config.stagingPcieAddr (Config.e6Cdw10 0x02 rest)
          (Config.e6Cdw11 0x02 rest))) ∧
    (phaseOk s .dirIn 4096 → ∃ t, exec (.vendorE6_06 rest) s = .next t ∧
      Submits s t { s.ctx with cmdDir := .dirIn, cmdLen := 4096 } .admin
        (.identify 0 (Config.e6Nsid 0x06 rest) Config.stagingPcieAddr (Config.e6Cdw10 0x06 rest)
          (Config.e6Cdw11 0x06 rest)))

/-- 0xE8: PASSED, with the hard reset, the re-enumeration or the commit's reset owed after the CSW; the commit marks the
flash valid and clears the update state. That the flash driver cannot fail the mark is the model's choice
(notes/assumptions/47.md). -/
def Obligations.ResetCommands : Prop :=
  ∀ s : State,
    (∃ t, exec .vendorE8_00 s = .next t ∧ Changes s t inCsw ∧
      Ended s t { s.ctx with cmdDir := .dirNone, cmdLen := 0, afterCsw := .hardReset } s.sense s.nvme 0) ∧
    (∃ t, exec .vendorE8_01 s = .next t ∧ Changes s t inCsw ∧
      Ended s t { s.ctx with cmdDir := .dirNone, cmdLen := 0, afterCsw := .reenumerate } s.sense s.nvme 0) ∧
    (∃ t, exec .vendorE8_51 s = .next t ∧ Changes s t inCsw ∧
      Ended { s with fw := { cursor1 := 0, cursor2 := 0, staged := false, flashValid := true } } t
        { s.ctx with cmdDir := .dirNone, cmdLen := 0, afterCsw := .commitReset } s.sense s.nvme 0)

/-! ## The control requests -/

/-- GET_STATUS of the device, of interface 0 and of the four endpoint addresses; any other stalls endpoint 0. SET_ADDRESS: the
address is kept for the status phase; an address above 127 or a length stalls endpoint 0. Bulk-Only Mass Storage Reset is owed
at the status phase; a nonzero field stalls endpoint 0. Every request that is not listed stalls endpoint 0, which is the
unhandled row's one effect. That a phase flag raised for the transfer is taken back by the stall is the model's reading
(notes/assumptions/46.md). -/
def Obligations.StatusAddressResetUnhandled : Prop :=
  (∀ (s : State) (v i l : BitVec 16),
    (∃ t, exec (.getStatusDevice v i l) s = .next t ∧ Replied s t [0, 0] l) ∧
    (∃ t, exec (.getStatusInterface v i l) s = .next t ∧ if i = 0 then Replied s t [0, 0] l else Stalled0 s t) ∧
    (∃ t, exec (.getStatusEndpoint v i l) s = .next t ∧
      if i = 0x0081 then Replied s t [if s.usb.haltIn then 1 else 0, 0] l
      else if i = 0x0002 then Replied s t [if s.usb.haltOut then 1 else 0, 0] l
      else if i = 0x0000 ∨ i = 0x0080 then Replied s t [0, 0] l
      else Stalled0 s t) ∧
    (∃ t, exec (.setAddress v i l) s = .next t ∧
      if 127 < v.toNat ∨ l ≠ 0 then Stalled0 s t else Accepted s t (some (v.setWidth 7)) .none) ∧
    (∃ t, exec (.bulkOnlyReset v i l) s = .next t ∧
      if v ≠ 0 ∨ i ≠ 0 ∨ l ≠ 0 then Stalled0 s t else Accepted s t none .botReset)) ∧
  (∀ (s : State) (ty rq : BitVec 8) (v i l : BitVec 16), ∃ t, exec (.unhandledRequest ty rq v i l) s = .next t ∧
    Stalled0 s t)

/-- CLEAR_FEATURE(ENDPOINT_HALT): the halt is cleared and bulk-OUT armed where allowed, unless a BOT reset is required;
any other selector, length or endpoint stalls endpoint 0. That a phase flag raised for the transfer is taken back by the stall is the
model's reading (notes/assumptions/46.md). -/
def Obligations.ClearFeature : Prop :=
  ∀ (s : State) (v i l : BitVec 16), ∃ t, exec (.clearFeature v i l) s = .next t ∧
    if v ≠ 0 ∨ l ≠ 0 then Stalled0 s t
    else if i = 0x0081 then
      Accepted { s with usb := { s.usb with haltIn := s.usb.haltIn && s.usb.botResetRequired } } t none .none
    else if i = 0x0002 then
      Accepted (if s.usb.botResetRequired then s
        else if s.usb.config = 1 ∧ s.ctx.state = .done then
          { s with usb := { s.usb with haltOut := false, outArmed := .cbw, outTaken := 0 } }
        else { s with usb := { s.usb with haltOut := false } }) t none .none
    else if i = 0x0000 ∨ i = 0x0080 then Accepted s t none .none
    else Stalled0 s t

/-- GET_DESCRIPTOR: the descriptors bit-exact, the 22 bytes of the BOS descriptor but for the eleven that the spec leaves
free; any other type or index stalls endpoint 0. That a phase flag raised for the transfer is taken back by the stall is the model's
reading (notes/assumptions/46.md). -/
def Obligations.GetDescriptor : Prop :=
  ∀ (s : State) (type index : BitVec 8) (i l : BitVec 16), ∃ t, exec (.getDescriptor type index i l) s = .next t ∧
    if type = 1 ∧ index = 0 then
      Replied s t [0x12, 0x01, 0x10, 0x02, 0x00, 0x00, 0x00, 0x40, 0x4C, 0x17, 0x62, 0x24, 0x00, 0x01, 0x02, 0x03, 0x01,
        0x01] l
    else if type = 2 ∧ index = 0 then
      Replied s t [0x09, 0x02, 0x20, 0x00, 0x01, 0x01, 0x00, 0x80, 0xFA, 0x09, 0x04, 0x00, 0x00, 0x02, 0x08, 0x06, 0x50,
        0x00, 0x07, 0x05, 0x81, 0x02, 0x00, 0x02, 0x00, 0x07, 0x05, 0x02, 0x02, 0x00, 0x02, 0x00] l
    else if type = 3 ∧ index = 0 then Replied s t [0x04, 0x03, 0x09, 0x04] l
    else if type = 3 ∧ index = 1 then
      Replied s t ([0x1A, 0x03, 0x76, 0x00] ++ (List.replicate 11 [0x30, 0x00]).flatten) l
    else if type = 3 ∧ index = 2 then
      Replied s t [0x10, 0x03, 0x41, 0x00, 0x73, 0x00, 0x6D, 0x00, 0x65, 0x00, 0x64, 0x00, 0x69, 0x00, 0x61, 0x00] l
    else if type = 3 ∧ index = 3 then
      Replied s t [0x14, 0x03, 0x41, 0x00, 0x53, 0x00, 0x4D, 0x00, 0x32, 0x00, 0x34, 0x00, 0x36, 0x00, 0x34, 0x00, 0x50,
        0x00, 0x44, 0x00] l
    else if type = 15 ∧ index = 0 then
      ∃ x y : Bytes, x.length = 4 ∧ y.length = 7 ∧
        Replied s t ([0x05, 0x0F, 0x16, 0x00, 0x02, 0x07, 0x10, 0x02] ++ x ++ [0x0A, 0x10, 0x03] ++ y) l
    else Stalled0 s t

/-- SET_CONFIGURATION: the value is stored, the halts cleared unless a BOT reset is required, and bulk-OUT armed or
disarmed; a length or a value above 1 stalls endpoint 0. That a phase flag raised for the transfer is taken back by the stall is the
model's reading (notes/assumptions/46.md). -/
def Obligations.SetConfiguration : Prop :=
  ∀ (s : State) (v i l : BitVec 16), ∃ t, exec (.setConfiguration v i l) s = .next t ∧
    if l ≠ 0 ∨ 1 < v.toNat % 256 then Stalled0 s t
    else
      let c := v.setWidth 8
      let ho := s.usb.haltOut && s.usb.botResetRequired
      let u := { s.usb with config := c, haltIn := s.usb.haltIn && s.usb.botResetRequired, haltOut := ho }
      Accepted { s with usb :=
        if c = 0 then { u with outArmed := .none, outTaken := 0 }
        else if s.ctx.state = .done ∧ ho = false then { u with outArmed := .cbw, outTaken := 0 } else u } t none .none

/-- The data phase of a transfer: the first `wLength` bytes of the reply are handed over and the status phase is next. The
status phase: the owed address is adopted, the owed BOT reset performed, and the transfer ends. Out of phase either is an
unexpected event. That the buffers keep their bytes over a BOT reset is the model's choice (notes/assumptions/40.md), and the
record of the bytes handed over is its own field (18.md). -/
def Obligations.StatusPhase : Prop :=
  ∀ s : State, s.link.state = .ready ∨ s.link.state = .resume →
    let t := ctlStatusPhase s
    (s.ctl.phase ≠ .data → ctlDataPhase s = raiseFault .unexpectedEvent s) ∧
    (s.ctl.phase = .data →
      ctlDataPhase s = { s with
        ctl := { s.ctl with
          ep0In := s.ctl.reply.take (byteAt s.ctl.setup 7 ++ byteAt s.ctl.setup 6 : BitVec 16).toNat
          phase := .status }
        ev := { s.ev with ctlData := false } }) ∧
    (s.ctl.phase ≠ .status → t = raiseFault .unexpectedEvent s) ∧
    (s.ctl.phase = .status →
      t.ctl = { s.ctl with pendingAddress := none, pendingAction := .none, phase := .idle } ∧
      t.ev = { s.ev with ctlStatus := false } ∧
      t.link.usbEnumerated = (s.link.usbEnumerated || s.ctl.pendingAddress.isSome) ∧
      t.usb.address = s.ctl.pendingAddress.getD s.usb.address ∧
      t.sense = s.sense ∧ t.fw = s.fw ∧ t.mem = s.mem ∧
      (s.ctl.pendingAction = .none → t.ctx = s.ctx ∧ t.nvme = s.nvme ∧ t.dma = s.dma ∧
        t.usb = { s.usb with address := t.usb.address } ∧ t.usbIn = s.usbIn ∧ t.usbOut = s.usbOut) ∧
      (s.ctl.pendingAction = .botReset → t.ctx = { s.ctx with state := .done, afterCsw := .nothing } ∧
        t.nvme = orphaned s.nvme ∧ t.dma = { s.dma with busy := false, done := false, len := 0, moved := 0 } ∧
        t.usbIn = [] ∧ t.usbOut = [] ∧
        t.usb = { s.usb with
          address := t.usb.address, botResetRequired := false, inBusy := .none, outTaken := 0
          outArmed := if s.usb.config = 1 ∧ s.usb.haltOut = false then .cbw else .none }))

/-! ## The transport's other steps -/

/-- A bulk-OUT transfer in `DONE` that fails one of the three checks (31 bytes, signature 55 53 42 43, byte 14 from 1 to 16)
halts both endpoints until a BOT reset; no CSW is sent and the latched fields of the context are kept. That the
information of the sense becomes 0 is the model's choice (notes/assumptions/41.md). -/
def Obligations.InvalidCbwStalls : Prop :=
  ∀ s : State, ¬ CbwValid s →
    receiveCbw s = .next { s with
      sense := { key := 5, asc := 0x24, ascq := 0, info := 0, infoValid := false }
      ctx := { s.ctx with state := .stalled }
      usb := { s.usb with haltIn := true, haltOut := true, botResetRequired := true, inBusy := .none, outArmed := .none }
      usbIn := [], usbOut := [] }

/-- A bulk-IN event: the acknowledged payload chunk and the acknowledged CSW.
After a chunk READ(10) builds the NVMe Read of the next one, or ends PASSED with no blocks left, and every other command ends
PASSED; with the CSW already owed the chunk is only noted; an event that the table of expected events does not have is a fault.
The CSW: what the command left to do after it. Where bulk-OUT may not be armed (in `FAULT` or another state of the link, with a
configuration that is not 1, or halted) the context is `DONE` and nothing is armed. That the built entry waits in the state is
the model's choice (notes/assumptions/24.md), and that in `FAULT` every other event is ignored, with configuration 0 too, its
reading (20.md). -/
def Obligations.BulkInAcknowledged : Prop :=
  ∀ s : State,
    (s.link.state = .ready ∨ s.link.state = .resume →
      let t := bulkInHandler s
      let v := { s with usb := { s.usb with inBusy := .none } }
      (s.usb.config = 0 ∨ s.usb.inBusy = .none → t = raiseFault .unexpectedEvent s) ∧
      (s.usb.config ≠ 0 → s.usb.inBusy = .csw →
        t = if s.ctx.state = .sendingData ∨ s.ctx.state = .awaitingCsw ∨ s.ctx.state = .stalled then cswAck s
          else raiseFault .unexpectedEvent s) ∧
      (∀ n, s.usb.config ≠ 0 → s.usb.inBusy = .data n →
        (s.ctx.state = .sendingData → byteAt s.ctx.cdb 0 ≠ 0x28 ∨ s.ctx.blocksLeft = 0 →
          Ended v t s.ctx s.sense s.nvme 0 ∧ Changes s t inCsw) ∧
        (s.ctx.state = .sendingData → byteAt s.ctx.cdb 0 = 0x28 → s.ctx.blocksLeft ≠ 0 →
          Submits v t s.ctx .io (.nvmeRead 0 Config.nsid Config.stagingPcieAddr s.ctx.lba
            (BitVec.ofNat 16 (min (4096 / s.nvme.blockSize.toNat) s.ctx.blocksLeft.toNat) - 1))) ∧
        (s.ctx.state = .awaitingCsw → t = v) ∧
        (s.ctx.state ≠ .sendingData → s.ctx.state ≠ .awaitingCsw → t = raiseFault .unexpectedEvent s))) ∧
    (s.link.state = .fault → bulkInHandler s = if s.usb.inBusy = .csw then cswAck s else s) ∧
    (s.ctx.afterCsw = .nothing → s.ctx.state = .awaitingCsw → s.usb.config = 1 → s.usb.haltOut = false →
      (s.link.state = .ready ∨ s.link.state = .resume) →
      cswAck s = { s with ctx := { s.ctx with state := .done },
                          usb := { s.usb with inBusy := .none, outArmed := .cbw, outTaken := 0 } }) ∧
    (s.ctx.afterCsw = .nothing → s.ctx.state = .awaitingCsw →
      (s.usb.config ≠ 1 ∨ s.usb.haltOut = true ∨ (s.link.state ≠ .ready ∧ s.link.state ≠ .resume)) →
      cswAck s = { s with ctx := { s.ctx with state := .done }, usb := { s.usb with inBusy := .none } }) ∧
    (s.ctx.afterCsw = .nothing → s.ctx.state = .stalled →
      cswAck s = { s with usb := { s.usb with inBusy := .none } }) ∧
    (s.ctx.afterCsw = .haltBoth →
      cswAck s = { s with
        ctx := { s.ctx with state := .stalled, afterCsw := .nothing }
        usb := { s.usb with haltIn := true, haltOut := true, botResetRequired := true, inBusy := .none, outArmed := .none }
        usbIn := [], usbOut := [] }) ∧
    (s.ctx.afterCsw = .hardReset ∨ s.ctx.afterCsw = .commitReset → cswAck s = powerOn s) ∧
    (s.ctx.afterCsw = .reenumerate → (cswAck s).ctx.state = .done ∧
      (cswAck s).faults = recorded s .softReenumerate ∧
      (s.link.state ≠ .recovery → (cswAck s).link.state = .fault))

/-- One step of the DMA engine in a transfer it can run: the first bytes of bulk-OUT move to `STAGING`, or the whole
transfer moves to bulk-IN; when all have moved `DMA_DONE` is set and the engine is no longer busy. Nothing else changes. -/
def Obligations.DmaMoves : Prop :=
  ∀ (s : State) (k : Nat), s.dma.busy = true → 1 ≤ s.dma.len → s.dma.ptr + s.dma.len ≤ 4096 → s.dma.moved < s.dma.len →
    let t := dmaStep k s
    let n := min (min k (s.dma.len - s.dma.moved)) s.usbOut.length
    (s.dma.dir = .rx →
      t = { s with
        usbOut := s.usbOut.drop n
        dma := if s.dma.moved + n = s.dma.len then { s.dma with moved := s.dma.len, busy := false, done := true }
               else { s.dma with moved := s.dma.moved + n }
        mem := t.mem } ∧
      (∀ i, i < n → t.byte .staging (s.dma.ptr + s.dma.moved + i) = byteAt s.usbOut i) ∧
      Changes s t (fun sp o => sp = .staging ∧ s.dma.ptr + s.dma.moved ≤ o ∧ o < s.dma.ptr + s.dma.moved + n)) ∧
    (s.dma.dir = .tx →
      t = { s with usbIn := s.usbIn ++ [s.bytes .staging s.dma.ptr s.dma.len]
                   dma := { s.dma with moved := s.dma.len, busy := false, done := true } })

/-- A payload chunk from the host, and a turn of the sequencer in the wait for a DMA transfer of `n` bytes.
A bulk-OUT event in `AWAITING_DATA` sets the transfer of the chunk up, at most 4096 bytes of what is still owed, with `DMA_DONE`
cleared, and waits for it. With `DMA_DONE` set, a chunk to the host is counted in `actual` and noted in `in_busy`, and a READ(10) moves on by its blocks; a
chunk from the host is counted, bulk-OUT is disarmed and the command's rule runs the chunk, which for WRITE(10) builds the NVMe
Write. Without it the time-out is the fault `DMA_TIMEOUT`, and before that the sequencer stays blocked: a turn given to it
changes nothing, and with no input left the engine steps. The schedule of turns and that engine step are the model's choices
(notes/assumptions/9.md), and so is that the built entry waits in the state (24.md); the unused bits of `DMA_DIR` are its own
field (14.md, 18.md). -/
def Obligations.DmaWait : Prop :=
  (∀ s : State, s.link.state = .ready ∨ s.link.state = .resume → s.usb.config ≠ 0 → s.ctx.state = .awaitingData →
    let n := min 4096 (s.ctx.cmdLen - s.ctx.actual.setWidth 64).toNat
    bulkOutHandler s = .next { s with
      dma := { dir := .rx, len := n, ptr := 0, moved := 0, busy := true, done := false }
      spare := { s.spare with dmaDir := 0 }
      seq := { s.seq with wait := some { pred := .dmaDone, start := s.now, bound := Config.tDma, resume := .rx n } } }) ∧
  ∀ (s u : State) (w : Wait) (n : Nat), turn s u → s.seq.wait = some w →
    let v := { u with seq := { s.seq with wait := none } }
    let nb := n / s.nvme.blockSize.toNat
    let sent := { s.ctx with actual := s.ctx.actual + BitVec.ofNat 32 n }
    let received := { v with ctx := { sent with state := .executing }, usb := { s.usb with outArmed := .none, outTaken := 0 } }
    (s.dma.done = true → w.resume = .tx n →
      step s = .next { v with
        ctx := if byteAt s.ctx.cdb 0 = 0x28 then
            { sent with chunkIdx := s.ctx.chunkIdx + 1, lba := s.ctx.lba + BitVec.ofNat 64 nb,
                        blocksLeft := s.ctx.blocksLeft - BitVec.ofNat 32 nb }
          else sent
        usb := { s.usb with inBusy := .data n } }) ∧
    (s.dma.done = true → w.resume = .rx n → step s = chunkExec n received) ∧
    (s.dma.done = true → w.resume = .rx n → ∀ lba blocks, decodeCdb s.ctx.cdb = .write10 lba blocks →
      ∃ t, step s = .next t ∧
        Submits received t received.ctx .io
          (.nvmeWrite 0 Config.nsid Config.stagingPcieAddr s.ctx.lba (BitVec.ofNat 16 nb - 1))) ∧
    (s.dma.done = false → w.bound ≤ s.now - w.start → step s = .next (raiseFault .dmaTimeout v)) ∧
    (s.dma.done = false → s.now - w.start < w.bound →
      step s = .next (if s.env = [] then dmaStep 4096 s else u))

/-- A received chunk of 0xE1 or 0xE3 whose place lies in the flash. A program that succeeds puts the bytes of `STAGING` at the
chunk's place, erases the other bytes of the touched sectors where the collateral is erased and keeps them where it is
preserved, moves a part's cursor on, sets the staged mark and clears the valid mark, and goes on with the next chunk. One that
the driver fails ends the command FAILED with the sense, the cursors and the marks kept, and of the flash changes no byte
outside the range and, where the collateral is erased, its sectors. That the driver's success is the field `flashOk`, and the
count `free` of values left open, are the model's choices (notes/assumptions/28.md, 18.md), and so is a sector cut at the end of
the flash (27.md). That with configuration 0 neither the next chunk nor the bytes to be dropped are armed is its reading of rule
R249 (42.md). -/
def Obligations.FlashChunk : Prop :=
  ∀ (s : State) (n a : Nat) (fw : Fw), 0 < n → a + n ≤ Config.flashSize →
    ((∃ b, decodeCdb s.ctx.cdb = .vendorE1_50 b ∧ a = 128 * b.toNat ∧ fw = s.fw) ∨
     (∃ l, decodeCdb s.ctx.cdb = .vendorE3_50 l ∧ a = 0x80 + s.fw.cursor1.toNat ∧
       fw = { s.fw with cursor1 := s.fw.cursor1 + BitVec.ofNat 32 n, staged := true, flashValid := false }) ∨
     (∃ l, decodeCdb s.ctx.cdb = .vendorE3_D0 l ∧ a = 0x10000 + s.fw.cursor2.toNat ∧
       fw = { s.fw with cursor2 := s.fw.cursor2 + BitVec.ofNat 32 n, staged := true, flashValid := false })) →
    ∃ t, chunkExec n s = .next t ∧
      let rest := (s.ctx.cmdLen - s.ctx.actual.setWidth 64).toNat
      if s.flashOk = true then
        Programmed s t a n ∧
        Asked { s with fw := fw, mem := t.mem } t { s.ctx with chunkIdx := s.ctx.chunkIdx + 1 } rest ∧
        Changes s t (fun sp o => sp = .flash ∨ (rest = 0 ∧ inCsw sp o))
      else
        Ended { s with free := s.free + 1 } t s.ctx s.sense (orphaned s.nvme) 1 ∧
        Changes s t (fun sp o => inCsw sp o ∨
          (sp = .flash ∧ ((a ≤ o ∧ o < a + n) ∨ (Config.flashCollateralErased = true ∧ touched a n o))))

/-! ## The NVMe engine -/

/-- Each of the seven entries (Identify, Create I/O CQ, Create I/O SQ, Get Log Page, Flush, Write, Read), submitted with a slot
free: the slot of lowest index holds the command with a fresh id, the entry is in the submission queue at the tail, the
tail and its doorbell move on, and nothing else changes. The entry's owner comes from the pending request, the model's
choice (notes/assumptions/24.md). -/
def Obligations.SubmitIssues : Prop :=
  ∀ (i : Instr) (q : QueueId) (e : Bytes) (s : State) (k : Nat), encode i = .sqe q e →
    s.nvme.slots.length = Config.kMax → freeSlot s = some k →
    ∃ t, exec i s = .next t ∧
      Issued { s with seq := { s.seq with submit := none } } t k
        { s.nvme.slot k with inUse := true, q := q, owner := submitOwner s, retries := 0, sqe := e }

/-- With no slot free a command of the context ends NOT READY, and a command of the bring-up fails it with a record. That
the information of the new sense is 0 is the model's choice (notes/assumptions/41.md), and that with configuration 0 bulk-OUT is
not armed to drop what is owed its reading of rule R249 (42.md). -/
def Obligations.SubmitNoSlot : Prop :=
  ∀ (i : Instr) (q : QueueId) (e : Bytes) (s : State) (r : SubmitReq), encode i = .sqe q e → freeSlot s = none →
    s.seq.submit = some r →
    ∃ t, exec i s = .next t ∧
      (r.owner = .ctx → Failed { s with seq := { s.seq with submit := none } } t
        { key := 2, asc := 4, ascq := 0, info := 0, infoValid := false }) ∧
      (r.owner = .init → t = { s with
        seq := { s.seq with submit := none }
        nvme := { s.nvme with init := .failed }
        faults := recorded s .nvmeInitFailed })

/-- The sense of a final status, for every status and LBA. That the information is 0 where the table marks none valid is the
model's choice (notes/assumptions/41.md). -/
def Obligations.SenseTable : Prop :=
  ∀ (st : BitVec 15) (lba : BitVec 32),
    senseOfStatus st lba =
      if st.toNat % 2048 = 0x007 then { key := 0x0B, asc := 0, ascq := 0, info := 0, infoValid := false }
      else if st.toNat % 2048 = 0x00B then { key := 0x05, asc := 0x20, ascq := 0, info := 0, infoValid := false }
      else { key := 0x03, asc := 0x11, ascq := 0, info := lba, infoValid := true }

/-- One turn of the poll of a completion queue, on the 16 bytes at 16 times the head. Where bit 0 of byte 14 (the phase bit,
bit 0 of `LE16` at byte 14) is the expected phase, the entry is consumed: the head moves on, the expected phase turns at the
wrap, the head doorbell is written, and the entry goes to the first slot in use on the queue that holds its id (`LE16` at
byte 12) with its status (the 15 bits above the phase bit); an id that no slot holds is an unexpected event. Where the bit is
not the expected phase nothing is consumed and the poll of the queue is over. That each turn is a step of its own is the
model's choice (notes/assumptions/10.md). -/
def Obligations.PollConsumes : Prop :=
  ∀ (q : QueueId) (fromTick : Bool) (s : State),
    let p := s.nvme.queue q
    let b := fun j => s.byte (.cq q) (16 * p.cqHead.val + j)
    let e := (List.range 16).map b
    let h := (p.cqHead.val + 1) % Config.queueDepth
    let held := fun j => (s.nvme.slot j).inUse = true ∧ (s.nvme.slot j).q = q ∧ (s.nvme.slot j).cid = b 13 ++ b 12
    if (b 14).getLsbD 0 = p.cqPhase then
      ∃ u, pollTurn q fromTick s = complete q e u ∧
        u = { s with nvme := u.nvme } ∧
        u.nvme = { s.nvme with adminQ := u.nvme.adminQ, ioQ := u.nvme.ioQ } ∧
        (u.nvme.queue q).cqHead.val = h ∧ (u.nvme.queue q).cqHeadDb = h ∧
        (u.nvme.queue q).consumed = p.consumed + 1 ∧ (u.nvme.queue q).cqPhase = (if h = 0 then !p.cqPhase else p.cqPhase) ∧
        (u.nvme.queue q).sqTail = p.sqTail ∧ (u.nvme.queue q).sqTailDb = p.sqTailDb ∧
        (∀ r, r ≠ q → u.nvme.queue r = s.nvme.queue r) ∧
        (∀ i, i < s.nvme.slots.length → held i → (∀ j, j < i → ¬ held j) →
          complete q e u = settle i ((b 15 ++ b 14 : BitVec 16).extractLsb' 1 15)
            { u with nvme := { u.nvme with slots := u.nvme.slots.set i { s.nvme.slot i with cqe := e, phase := p.cqPhase } } }) ∧
        ((∀ j, j < s.nvme.slots.length → ¬ held j) → complete q e u = raiseFault .unexpectedEvent u)
    else
      pollTurn q fromTick s = { s with seq := { s.seq with
        pos := match q with
          | .admin => .poll .io fromTick
          | .io => if fromTick then .linkTick else .sysError } }

/-- What a completion's status does to its slot `i`; `u` is the state with the slot freed.
Status 0 is delivered: READ(10) sends its chunk, WRITE(10) moves on by its chunk and asks for the next or ends PASSED,
SYNCHRONIZE CACHE ends PASSED, 0xE6 sends its data, and each bring-up command submits the next one, caches the namespace or
ends the bring-up. A final nonzero status ends the command with the translated sense, or fails the bring-up with a record. A
retryable one is issued again, with a new id and at the tail, up to `NVME_RETRY_MAX` times; then a command of the context is
a fault and one of the bring-up fails it. An orphan is only freed. That the next bring-up entry waits in the state is the
model's choice (notes/assumptions/24.md), and so is the information 0 in a sense that gives none (41.md); that with
configuration 0 neither the next chunk nor the bytes to be dropped are armed is its reading of rule R249 (42.md). -/
def Obligations.CompletionSettles : Prop :=
  ∀ (i : Nat) (st : BitVec 15) (s : State), i < s.nvme.slots.length →
    let x := s.nvme.slot i
    let t := settle i st s
    let u := { s with nvme := { s.nvme with slots := s.nvme.slots.set i { x with inUse := false } } }
    let op := byteAt s.ctx.cdb 0
    let bs := s.nvme.blockSize.toNat
    let final := st ≠ 0 ∧ st.getLsbD 14 = true
    let retry := st ≠ 0 ∧ st.getLsbD 14 = false
    let failed := { u with nvme := { u.nvme with init := .failed }, faults := recorded s .nvmeInitFailed }
    (x.owner = .none → t = u) ∧
    (x.owner = .ctx → st = 0 → op = 0x28 → t = sending u s.ctx (min (4096 / bs) s.ctx.blocksLeft.toNat * bs)) ∧
    (x.owner = .ctx → st = 0 → op = 0x2A →
      let n := min 4096 (s.ctx.cmdLen.toNat - 4096 * s.ctx.chunkIdx) / bs
      Asked u t { s.ctx with lba := s.ctx.lba + BitVec.ofNat 64 n, blocksLeft := s.ctx.blocksLeft - BitVec.ofNat 32 n,
                             chunkIdx := s.ctx.chunkIdx + 1 } (s.ctx.cmdLen - s.ctx.actual.setWidth 64).toNat) ∧
    (x.owner = .ctx → st = 0 → op = 0x35 → Ended u t s.ctx s.sense u.nvme 0 ∧ Changes u t inCsw) ∧
    (x.owner = .ctx → st = 0 → op = 0xE6 →
      if s.ctx.cmdLen = 0 then Ended u t s.ctx s.sense u.nvme 0 ∧ Changes u t inCsw
      else t = sending u s.ctx s.ctx.cmdLen.toNat) ∧
    (x.owner = .ctx → final → op = 0x28 ∨ op = 0x2A → Failed u t (senseOfStatus st (s.ctx.lba.setWidth 32))) ∧
    (x.owner = .ctx → final → op = 0x35 ∨ op = 0xE6 → Failed u t (senseOfStatus st 0)) ∧
    (x.owner ≠ .none → retry → x.retries < Config.nvmeRetryMax → s.nvme.slots.length = Config.kMax → x.sqe.length = 64 →
      Issued s t i { x with retries := x.retries + 1 }) ∧
    (x.owner = .ctx → retry → Config.nvmeRetryMax ≤ x.retries → t = raiseFault .nvmeRetryExhausted u) ∧
    (x.owner = .init → st = 0 → s.nvme.init = .idCtrl →
      InitSubmits u t .idNs (.identify 0 Config.nsid Config.stagingPcieAddr 0 0)) ∧
    (x.owner = .init → st = 0 → s.nvme.init = .idNs →
      let m := s.byte .staging
      let nsze : BitVec 64 := ((m 7 ++ m 6) ++ (m 5 ++ m 4)) ++ ((m 3 ++ m 2) ++ (m 1 ++ m 0))
      let lbads := m (128 + 4 * ((m 26).toNat % 16) + 2)
      if nsze = 0 ∨ (lbads ≠ 9 ∧ lbads ≠ 12) then t = failed
      else InitSubmits { u with nvme := { u.nvme with nsSize := nsze, blockSize := if lbads = 9 then 512 else 4096 } } t
        .createCq (.createIoCq 0 (Config.cqPcieAddr .io) (BitVec.ofNat 16 (Config.queueDepth - 1) ++ (1#16)) 0x00000003)) ∧
    (x.owner = .init → st = 0 → s.nvme.init = .createCq →
      InitSubmits u t .createSq
        (.createIoSq 0 (Config.sqPcieAddr .io) (BitVec.ofNat 16 (Config.queueDepth - 1) ++ (1#16)) 0x00010001)) ∧
    (x.owner = .init → st = 0 → s.nvme.init = .createSq →
      t = { u with nvme := { u.nvme with ioCreated := true, identified := true, init := .done } }) ∧
    (x.owner = .init → final ∨ (retry ∧ Config.nvmeRetryMax ≤ x.retries) → t = failed)

/-- A command outstanding for `T_nvme_cmd` is freed: a context's is a fault, the bring-up's fails it, an orphan is only
freed; a younger one is left. That each slot is a turn of its own and that the check goes on at the next higher index are the
model's choices (notes/assumptions/10.md, 44.md). -/
def Obligations.CommandTimeout : Prop :=
  ∀ (i : Nat) (s : State), i < s.nvme.slots.length →
    let u := { goto (.timeouts (i + 1)) s with
      nvme := { s.nvme with slots := s.nvme.slots.set i { s.nvme.slot i with inUse := false } } }
    ((s.nvme.slot i).inUse = false ∨ s.now - (s.nvme.slot i).issuedAt < Config.tNvmeCmd →
      timeoutTurn i s = goto (.timeouts (i + 1)) s) ∧
    ((s.nvme.slot i).inUse = true → Config.tNvmeCmd ≤ s.now - (s.nvme.slot i).issuedAt →
      timeoutTurn i s = match (s.nvme.slot i).owner with
        | .ctx => raiseFault .nvmeTimeout u
        | .init => { u with nvme := { u.nvme with init := .failed }, faults := recorded s .nvmeInitFailed }
        | .none => u)
end

