-- ==== Sys2Proof/Laws/Bytes.lean ====
section
/-! SUPPORT. Lengths and round trips of the byte-order functions. -/

namespace Sys2Proof

@[simp] theorem length_zeros (n : Nat) : (zeros n).length = n := by simp [zeros]
@[simp] theorem length_padTo (n : Nat) (b : Bytes) : (padTo n b).length = n := by simp [padTo]
@[simp] theorem length_putBE16 (v : BitVec 16) : (putBE16 v).length = 2 := rfl
@[simp] theorem length_putBE24 (v : BitVec 24) : (putBE24 v).length = 3 := rfl
@[simp] theorem length_putBE32 (v : BitVec 32) : (putBE32 v).length = 4 := rfl
@[simp] theorem length_putBE64 (v : BitVec 64) : (putBE64 v).length = 8 := rfl
@[simp] theorem length_putBE112 (v : BitVec 112) : (putBE112 v).length = 14 := rfl
@[simp] theorem length_putLE16 (v : BitVec 16) : (putLE16 v).length = 2 := rfl
@[simp] theorem length_putLE32 (v : BitVec 32) : (putLE32 v).length = 4 := rfl
@[simp] theorem length_putLE64 (v : BitVec 64) : (putLE64 v).length = 8 := rfl

theorem getD_replicate_zero (n i : Nat) : (List.replicate n (0 : Byte)).getD i 0 = 0 := by
  simp only [List.getD_eq_getElem?_getD, List.getElem?_replicate]
  split <;> rfl

theorem byteAt_zeros (n i : Nat) : byteAt (zeros n) i = 0 := getD_replicate_zero n i

theorem byteAt_append (a b : Bytes) (i : Nat) :
    byteAt (a ++ b) i = if i < a.length then byteAt a i else byteAt b (i - a.length) := by
  simp only [byteAt, List.getD_eq_getElem?_getD, List.getElem?_append]
  split <;> rfl

theorem byteAt_padTo (n : Nat) (b : Bytes) (i : Nat) :
    byteAt (padTo n b) i = if i < n then byteAt b i else 0 := by
  simp only [byteAt, padTo, zeros, List.getD_eq_getElem?_getD, List.getElem?_take]
  split
  · rw [List.getElem?_append]
    split
    · rfl
    · rename_i h
      rw [List.getElem?_eq_none (l := b) (by omega), List.getElem?_replicate]
      split <;> rfl
  · rfl

theorem append_extract {w n m : Nat} (v : BitVec w) (i : Nat) (hi : i < n + m) :
    (v.extractLsb' m n ++ v.extractLsb' 0 m).getLsbD i = v.getLsbD i := by
  rw [BitVec.getLsbD_append]
  by_cases h : i < m
  · simp [h]
  · have h1 : i - m < n := by omega
    have h2 : m + (i - m) = i := by omega
    simp [h, h1, h2]

theorem extract_append16 (v : BitVec 16) : v.extractLsb' 8 8 ++ v.extractLsb' 0 8 = v :=
  BitVec.eq_of_getLsbD_eq fun i hi => append_extract v i hi

theorem extract_append24 (v : BitVec 24) : v.extractLsb' 16 8 ++ v.extractLsb' 0 16 = v :=
  BitVec.eq_of_getLsbD_eq fun i hi => append_extract v i hi

theorem extract_append32 (v : BitVec 32) : v.extractLsb' 16 16 ++ v.extractLsb' 0 16 = v :=
  BitVec.eq_of_getLsbD_eq fun i hi => append_extract v i hi

theorem extract_append64 (v : BitVec 64) : v.extractLsb' 32 32 ++ v.extractLsb' 0 32 = v :=
  BitVec.eq_of_getLsbD_eq fun i hi => append_extract v i hi

/-- Two appended vectors are equal where their parts are. -/
theorem append_inj {n m : Nat} {a c : BitVec n} {b d : BitVec m} : a ++ b = c ++ d ↔ a = c ∧ b = d := by
  refine ⟨fun h => ?_, fun h => by rw [h.1, h.2]⟩
  have hi : ∀ i, (a ++ b).getLsbD i = (c ++ d).getLsbD i := fun i => by rw [h]
  simp only [BitVec.getLsbD_append] at hi
  refine ⟨BitVec.eq_of_getLsbD_eq fun i _ => ?_, BitVec.eq_of_getLsbD_eq fun i h => ?_⟩
  · simpa using hi (m + i)
  · simpa [h] using hi i

/-- `getBE16` of two bytes at their place, whatever surrounds them. -/
theorem getBE16_eq {b : Bytes} {i : Nat} {v : BitVec 16} (h0 : byteAt b i = v.extractLsb' 8 8)
    (h1 : byteAt b (i + 1) = v.extractLsb' 0 8) : getBE16 b i = v := by
  rw [getBE16, h0, h1, extract_append16]

theorem getLE16_eq {b : Bytes} {i : Nat} {v : BitVec 16} (h0 : byteAt b i = v.extractLsb' 0 8)
    (h1 : byteAt b (i + 1) = v.extractLsb' 8 8) : getLE16 b i = v := by
  rw [getLE16, h0, h1, extract_append16]

theorem getBE16_putBE16 (v : BitVec 16) : getBE16 (putBE16 v) 0 = v := getBE16_eq rfl rfl
theorem getLE16_putLE16 (v : BitVec 16) : getLE16 (putLE16 v) 0 = v := getLE16_eq rfl rfl

theorem getBE24_putBE24 (v : BitVec 24) : getBE24 (putBE24 v) 0 = v := by
  rw [getBE24, getBE16_eq (v := v.extractLsb' 0 16) rfl rfl]
  exact extract_append24 v

theorem getBE32_putBE32 (v : BitVec 32) : getBE32 (putBE32 v) 0 = v := by
  rw [getBE32, getBE16_eq (v := v.extractLsb' 16 16) rfl rfl, getBE16_eq (v := v.extractLsb' 0 16) rfl rfl]
  exact extract_append32 v

theorem getLE32_putLE32 (v : BitVec 32) : getLE32 (putLE32 v) 0 = v := by
  rw [getLE32, getLE16_eq (v := v.extractLsb' 16 16) rfl rfl, getLE16_eq (v := v.extractLsb' 0 16) rfl rfl]
  exact extract_append32 v

theorem getLE64_putLE64 (v : BitVec 64) : getLE64 (putLE64 v) 0 = v := by
  rw [getLE64, getLE32, getLE32,
    getLE16_eq (i := 4 + 2) (v := (v.extractLsb' 32 32).extractLsb' 16 16) rfl rfl,
    getLE16_eq (i := 4) (v := (v.extractLsb' 32 32).extractLsb' 0 16) rfl rfl,
    getLE16_eq (i := 0 + 2) (v := (v.extractLsb' 0 32).extractLsb' 16 16) rfl rfl,
    getLE16_eq (i := 0) (v := (v.extractLsb' 0 32).extractLsb' 0 16) rfl rfl]
  rw [extract_append32, extract_append32, extract_append64]

end Sys2Proof
end

