-- ==== Sys2Proof/Laws/Memory.lean ====
section
/-! SUPPORT. The laws of the byte memory: what a read gives after each memory operation, and that each keeps the canonical
form. -/

namespace Sys2Proof.Machine

/-! ## The cell list -/

theorem lookupCell_insertCell (l : List Host.Cell) (a k : Nat) (b : Byte) :
    lookupCell (insertCell a b l) k = if a = k then some b else lookupCell l k := by
  induction l with
  | nil => simp [insertCell, lookupCell]
  | cons c l ih =>
    obtain ⟨x, y⟩ := c
    simp only [insertCell]
    split
    · simp [lookupCell]
    · split
      · subst_vars
        simp only [lookupCell]
        split <;> rfl
      · simp only [lookupCell, ih]
        split
        · subst_vars; simp_all
        · rfl

theorem lookupCell_eraseCell (l : List Host.Cell) (a k : Nat) :
    lookupCell (eraseCell a l) k = if a = k then none else lookupCell l k := by
  induction l with
  | nil => simp [eraseCell, lookupCell]
  | cons c l ih =>
    obtain ⟨x, y⟩ := c
    by_cases hx : x = a
    · subst hx
      simp only [eraseCell, if_true, ih, lookupCell]
      split <;> rfl
    · simp only [eraseCell, hx, if_false, lookupCell, ih]
      split
      · subst_vars; simp_all [eq_comm]
      · rfl

theorem lookupCell_filter (l : List Host.Cell) (p : Nat → Bool) (k : Nat) :
    lookupCell (l.filter fun c => p c.1) k = if p k = true then lookupCell l k else none := by
  induction l with
  | nil => simp [lookupCell]
  | cons c l ih =>
    obtain ⟨x, y⟩ := c
    by_cases hx : p x = true
    · simp only [List.filter_cons, hx, if_true, lookupCell, ih]
      by_cases hk : x = k
      · subst hk; simp [hx]
      · simp [hk]
    · simp only [List.filter_cons, hx, lookupCell]
      by_cases hk : x = k
      · subst hk; simp [hx, ih]
      · simp [hk, ih]

theorem mem_insertCell {l : List Host.Cell} {a : Nat} {b : Byte} {c : Host.Cell} (h : c ∈ insertCell a b l) :
    c = (a, b) ∨ c ∈ l := by
  induction l with
  | nil => simpa [insertCell] using h
  | cons d l ih =>
    obtain ⟨x, y⟩ := d
    simp only [insertCell] at h
    split at h
    · rcases List.mem_cons.1 h with h | h
      · exact .inl h
      · exact .inr h
    · split at h
      · rcases List.mem_cons.1 h with h | h
        · exact .inl h
        · exact .inr (List.mem_cons_of_mem _ h)
      · rcases List.mem_cons.1 h with h | h
        · exact .inr (h ▸ List.mem_cons_self)
        · exact (ih h).imp id (List.mem_cons_of_mem _)

theorem mem_eraseCell {l : List Host.Cell} {a : Nat} {c : Host.Cell} (h : c ∈ eraseCell a l) : c ∈ l := by
  induction l with
  | nil => simp [eraseCell] at h
  | cons d l ih =>
    obtain ⟨x, y⟩ := d
    simp only [eraseCell] at h
    split at h
    · exact List.mem_cons_of_mem _ (ih h)
    · rcases List.mem_cons.1 h with h | h
      · exact h ▸ List.mem_cons_self
      · exact List.mem_cons_of_mem _ (ih h)

theorem rising_insertCell {l : List Host.Cell} (a : Nat) (b : Byte) (h : l.Pairwise fun c d => c.1 < d.1) :
    (insertCell a b l).Pairwise fun c d => c.1 < d.1 := by
  induction l with
  | nil => simp [insertCell]
  | cons d l ih =>
    obtain ⟨x, y⟩ := d
    rw [List.pairwise_cons] at h
    simp only [insertCell]
    split
    · rename_i hlt
      refine List.pairwise_cons.2 ⟨fun c hc => ?_, List.pairwise_cons.2 h⟩
      rcases List.mem_cons.1 hc with hc | hc
      · subst hc; exact hlt
      · exact Nat.lt_trans hlt (h.1 c hc)
    · split
      · subst_vars; exact List.pairwise_cons.2 h
      · refine List.pairwise_cons.2 ⟨fun c hc => ?_, ih h.2⟩
        rcases mem_insertCell hc with hc | hc
        · subst hc; simp only; omega
        · exact h.1 c hc

theorem rising_eraseCell {l : List Host.Cell} (a : Nat) (h : l.Pairwise fun c d => c.1 < d.1) :
    (eraseCell a l).Pairwise fun c d => c.1 < d.1 := by
  induction l with
  | nil => simp [eraseCell]
  | cons d l ih =>
    obtain ⟨x, y⟩ := d
    rw [List.pairwise_cons] at h
    simp only [eraseCell]
    split
    · exact ih h.2
    · exact List.pairwise_cons.2 ⟨fun c hc => h.1 c (mem_eraseCell hc), ih h.2⟩

theorem not_mem_eraseCell {l : List Host.Cell} (a : Nat) (c : Host.Cell) (h : c ∈ eraseCell a l) : c.1 ≠ a := by
  induction l with
  | nil => simp [eraseCell] at h
  | cons d l ih =>
    obtain ⟨x, y⟩ := d
    simp only [eraseCell] at h
    split at h
    · exact ih h
    · rcases List.mem_cons.1 h with h | h
      · subst h; assumption
      · exact ih h

/-! ## One byte -/

theorem key_inj {sp tp : Space} {o p : Nat} (h : key sp o = key tp p) : sp = tp ∧ o = p := by
  cases sp with
  | sq q => cases tp with
    | sq r => cases q <;> cases r <;> simp [key, Space.code] at h ⊢ <;> omega
    | cq r => cases q <;> cases r <;> simp [key, Space.code] at h ⊢ <;> omega
    | _ => cases q <;> simp [key, Space.code] at h ⊢ <;> omega
  | cq q => cases tp with
    | sq r => cases q <;> cases r <;> simp [key, Space.code] at h ⊢ <;> omega
    | cq r => cases q <;> cases r <;> simp [key, Space.code] at h ⊢ <;> omega
    | _ => cases q <;> simp [key, Space.code] at h ⊢ <;> omega
  | _ => cases tp with
    | sq r => cases r <;> simp [key, Space.code] at h ⊢ <;> omega
    | cq r => cases r <;> simp [key, Space.code] at h ⊢ <;> omega
    | _ => simp [key, Space.code] at h ⊢; try omega

/-- A read after a write: the byte written at its address, what was there at every other. -/
theorem Memory.get_put (m : Memory) (a k : Nat) (b : Byte) :
    (m.put a b).get k = if a = k then some b else m.get k := by
  unfold Memory.put Memory.get
  by_cases h : unlisted a = some b
  · simp only [h, if_true, lookupCell_eraseCell]
    by_cases hk : a = k
    · subst hk; simp [h]
    · simp [hk]
  · simp only [h, if_false, lookupCell_insertCell]
    by_cases hk : a = k
    · simp [hk]
    · simp [hk]

theorem Memory.get_write (m : Memory) (sp tp : Space) (o p : Nat) (b : Byte) :
    (m.write sp o b).get (key tp p) = if sp = tp ∧ o = p then some b else m.get (key tp p) := by
  unfold Memory.write
  rw [Memory.get_put]
  by_cases h : key sp o = key tp p
  · rw [if_pos h, if_pos (key_inj h)]
  · rw [if_neg h, if_neg]
    rintro ⟨rfl, rfl⟩
    exact h rfl

theorem Memory.get_restrict (m : Memory) (p : Nat → Bool) (k : Nat) :
    (m.restrict p).get k = if p k = true then m.get k else unlisted k := by
  unfold Memory.restrict Memory.get
  simp only [lookupCell_filter]
  by_cases h : p k = true <;> simp [h]

theorem key_mod (sp : Space) (o : Nat) : key sp o % 16 = sp.code := by
  cases sp with
  | sq q => cases q <;> simp [key, Space.code]
  | cq q => cases q <;> simp [key, Space.code]
  | _ => simp [key, Space.code]

/-! ## Byte strings -/

/-- A read after `writeBytes`: the written bytes at their offsets, what was there elsewhere. -/
theorem Memory.get_writeBytes (m : Memory) (sp tp : Space) (o p : Nat) (l : Bytes) :
    (m.writeBytes sp o l).get (key tp p) =
      if sp = tp ∧ o ≤ p ∧ p < o + l.length then some (l.getD (p - o) 0) else m.get (key tp p) := by
  induction l generalizing m o with
  | nil =>
    simp only [Memory.writeBytes, List.length_nil]
    rw [if_neg]
    omega
  | cons b l ih =>
    simp only [Memory.writeBytes, ih, Memory.get_write, List.length_cons]
    by_cases hs : sp = tp
    · by_cases hp : o = p
      · subst hp
        simp [hs]
      · by_cases hr : o + 1 ≤ p ∧ p < o + 1 + l.length
        · have h1 : sp = tp ∧ o + 1 ≤ p ∧ p < o + 1 + l.length := ⟨hs, hr⟩
          have h2 : sp = tp ∧ o ≤ p ∧ p < o + (l.length + 1) := ⟨hs, by omega, by omega⟩
          rw [if_pos h1, if_pos h2]
          obtain ⟨j, hj⟩ : ∃ j, p - o = j + 1 := ⟨p - o - 1, by omega⟩
          have hj' : p - (o + 1) = j := by omega
          rw [hj, hj', List.getD_cons_succ]
        · rw [if_neg (by omega), if_neg (by omega), if_neg (by omega)]
    · simp [hs]

/-- A byte string stored in two parts, the second where the first ended. -/
theorem Memory.writeBytes_append (m : Memory) (sp : Space) (o : Nat) (x y : Bytes) :
    m.writeBytes sp o (x ++ y) = (m.writeBytes sp o x).writeBytes sp (o + x.length) y := by
  induction x generalizing m o with
  | nil => rfl
  | cons b x ih =>
    simp only [List.cons_append, Memory.writeBytes, List.length_cons]
    rw [ih, Nat.add_assoc, Nat.add_comm 1]

/-- A read after `fill`. -/
theorem Memory.get_fill (m : Memory) (sp tp : Space) (o p n : Nat) (f : Nat → Byte) :
    (m.fill sp o f n).get (key tp p) = if sp = tp ∧ o ≤ p ∧ p < o + n then some (f p) else m.get (key tp p) := by
  induction n generalizing m o with
  | zero =>
    simp only [Memory.fill]
    rw [if_neg]
    omega
  | succ n ih =>
    simp only [Memory.fill, ih, Memory.get_write]
    by_cases hs : sp = tp
    · by_cases hp : o = p
      · subst hp
        simp [hs]
      · by_cases hr : o + 1 ≤ p ∧ p < o + 1 + n
        · rw [if_pos ⟨hs, hr⟩, if_pos ⟨hs, by omega, by omega⟩]
        · rw [if_neg (by omega), if_neg (by omega), if_neg (by omega)]
    · simp [hs]

/-! ## The canonical form -/

theorem Memory.wf_empty : Memory.wf ⟨[]⟩ := ⟨List.Pairwise.nil, fun _ h => nomatch h⟩

theorem Memory.wf_put {m : Memory} (a : Nat) (b : Byte) (h : m.wf) : (m.put a b).wf := by
  unfold Memory.put
  split
  · exact ⟨rising_eraseCell a h.1, fun c hc => h.2 c (mem_eraseCell hc)⟩
  · refine ⟨rising_insertCell a b h.1, fun c hc => ?_⟩
    rcases mem_insertCell hc with hc | hc
    · subst hc; assumption
    · exact h.2 c hc

theorem Memory.wf_write {m : Memory} (sp : Space) (o : Nat) (b : Byte) (h : m.wf) : (m.write sp o b).wf :=
  Memory.wf_put _ b h

theorem Memory.wf_writeBytes {m : Memory} (sp : Space) (o : Nat) (l : Bytes) (h : m.wf) : (m.writeBytes sp o l).wf := by
  induction l generalizing m o with
  | nil => exact h
  | cons b l ih => exact ih (o + 1) (Memory.wf_write sp o b h)

theorem Memory.wf_fill {m : Memory} (sp : Space) (o n : Nat) (f : Nat → Byte) (h : m.wf) : (m.fill sp o f n).wf := by
  induction n generalizing m o with
  | zero => exact h
  | succ n ih => exact ih (o + 1) (Memory.wf_write sp o _ h)

theorem Memory.wf_restrict {m : Memory} (p : Nat → Bool) (h : m.wf) : (m.restrict p).wf :=
  ⟨h.1.sublist List.filter_sublist, fun c hc => h.2 c (List.mem_of_mem_filter hc)⟩

theorem Memory.wf_clearQueues {m : Memory} (h : m.wf) : m.clearQueues.wf := Memory.wf_restrict _ h

theorem Memory.wf_keepFlash {m : Memory} (h : m.wf) : m.keepFlash.wf := Memory.wf_restrict _ h

end Sys2Proof.Machine
end

