-- ==== Sys2Proof/Laws/State.lean ====
section
/-! SUPPORT. The fields of the state that each named update leaves alone, one equation a field (each by rfl), so that no
later proof unfolds a record update. -/

namespace Sys2Proof.Machine

@[simp] theorem storeBytes_keeps (sp : Space) (o : Nat) (b : Bytes) (s : State) :
    (storeBytes sp o b s).ctx = s.ctx ∧ (storeBytes sp o b s).sense = s.sense ∧ (storeBytes sp o b s).link = s.link ∧
    (storeBytes sp o b s).usb = s.usb ∧ (storeBytes sp o b s).ctl = s.ctl ∧ (storeBytes sp o b s).ev = s.ev ∧
    (storeBytes sp o b s).nvme = s.nvme ∧ (storeBytes sp o b s).dma = s.dma ∧
    (storeBytes sp o b s).faults = s.faults ∧ (storeBytes sp o b s).fw = s.fw ∧ (storeBytes sp o b s).phy = s.phy ∧
    (storeBytes sp o b s).seq = s.seq ∧ (storeBytes sp o b s).ctrlLen = s.ctrlLen ∧
    (storeBytes sp o b s).usbOut = s.usbOut ∧ (storeBytes sp o b s).usbIn = s.usbIn ∧
    (storeBytes sp o b s).now = s.now ∧ (storeBytes sp o b s).flashOk = s.flashOk ∧
    (storeBytes sp o b s).env = s.env ∧ (storeBytes sp o b s).epoch = s.epoch ∧ (storeBytes sp o b s).free = s.free ∧
    (storeBytes sp o b s).spare = s.spare ∧ (storeBytes sp o b s).race = s.race :=
    ⟨rfl, rfl, rfl, rfl, rfl, rfl, rfl, rfl, rfl, rfl, rfl, rfl, rfl, rfl, rfl, rfl, rfl, rfl, rfl, rfl, rfl, rfl⟩

/-- A change that the hardware makes between the halves of a read-modify-write reaches what the change reaches, and the
schedule `race` moves on. -/
theorem hwBetween_cases (f : Byte → State → State) (s : State) :
    hwBetween f s = { s with race := s.race.tail } ∨ ∃ v, hwBetween f s = f v { s with race := s.race.tail } := by
  unfold hwBetween
  split
  · rename_i h
    left
    rw [h]
    cases s
    cases h
    rfl
  · rename_i h
    left
    rw [h]
    rfl
  · rename_i v _ h
    right
    refine ⟨v, ?_⟩
    rw [h]
    rfl

/-- A read-modify-write of a byte of the backing array changes only memory and the schedule. -/
theorem rmwOne_eq (s : State) (t : BitVec 16 × Byte × Byte) :
    rmwOne s t = { s with mem := (rmwOne s t).mem, race := (rmwOne s t).race } := by
  unfold rmwOne
  split
  · rcases hwBetween_cases (hwStore t.1) s with h | ⟨v, h⟩ <;> rw [h] <;> rfl
  · rfl

/-- So does a list of them. -/
theorem rmwList_eq (l : List (BitVec 16 × Byte × Byte)) (s : State) :
    rmwList l s = { s with mem := (rmwList l s).mem, race := (rmwList l s).race } := by
  unfold rmwList
  induction l generalizing s with
  | nil => rfl
  | cons t l ih =>
    rw [List.foldl_cons, ih (rmwOne s t), rmwOne_eq s t]

@[simp] theorem rmwList_keeps (l : List (BitVec 16 × Byte × Byte)) (s : State) :
    (rmwList l s).ctx = s.ctx ∧ (rmwList l s).sense = s.sense ∧ (rmwList l s).link = s.link ∧
    (rmwList l s).usb = s.usb ∧ (rmwList l s).ctl = s.ctl ∧ (rmwList l s).ev = s.ev ∧ (rmwList l s).nvme = s.nvme ∧
    (rmwList l s).dma = s.dma ∧ (rmwList l s).faults = s.faults ∧ (rmwList l s).fw = s.fw ∧
    (rmwList l s).phy = s.phy ∧ (rmwList l s).seq = s.seq ∧ (rmwList l s).ctrlLen = s.ctrlLen ∧
    (rmwList l s).usbOut = s.usbOut ∧ (rmwList l s).usbIn = s.usbIn ∧ (rmwList l s).now = s.now ∧
    (rmwList l s).flashOk = s.flashOk ∧ (rmwList l s).env = s.env ∧ (rmwList l s).epoch = s.epoch ∧
    (rmwList l s).free = s.free ∧
    (rmwList l s).spare = s.spare :=
  by rw [rmwList_eq l s]; exact ⟨rfl, rfl, rfl, rfl, rfl, rfl, rfl, rfl, rfl, rfl, rfl, rfl, rfl, rfl, rfl, rfl, rfl, rfl, rfl, rfl, rfl⟩

@[simp] theorem enter_keeps (l : LinkState) (s : State) :
    (enter l s).ctx = s.ctx ∧ (enter l s).sense = s.sense ∧ (enter l s).usb = s.usb ∧ (enter l s).ctl = s.ctl ∧
    (enter l s).ev = s.ev ∧ (enter l s).nvme = s.nvme ∧ (enter l s).dma = s.dma ∧ (enter l s).faults = s.faults ∧
    (enter l s).fw = s.fw ∧ (enter l s).phy = s.phy ∧ (enter l s).seq = s.seq ∧ (enter l s).ctrlLen = s.ctrlLen ∧
    (enter l s).usbOut = s.usbOut ∧ (enter l s).usbIn = s.usbIn ∧ (enter l s).mem = s.mem ∧ (enter l s).now = s.now ∧
    (enter l s).flashOk = s.flashOk ∧ (enter l s).env = s.env ∧ (enter l s).epoch = s.epoch ∧
    (enter l s).free = s.free ∧
    (enter l s).spare = s.spare ∧ (enter l s).race = s.race :=
    ⟨rfl, rfl, rfl, rfl, rfl, rfl, rfl, rfl, rfl, rfl, rfl, rfl, rfl, rfl, rfl, rfl, rfl, rfl, rfl, rfl, rfl, rfl⟩

@[simp] theorem abortDma_keeps (s : State) :
    (abortDma s).ctx = s.ctx ∧ (abortDma s).sense = s.sense ∧ (abortDma s).link = s.link ∧ (abortDma s).usb = s.usb ∧
    (abortDma s).ctl = s.ctl ∧ (abortDma s).ev = s.ev ∧ (abortDma s).nvme = s.nvme ∧ (abortDma s).faults = s.faults ∧
    (abortDma s).fw = s.fw ∧ (abortDma s).phy = s.phy ∧ (abortDma s).seq = s.seq ∧ (abortDma s).ctrlLen = s.ctrlLen ∧
    (abortDma s).usbOut = s.usbOut ∧ (abortDma s).usbIn = s.usbIn ∧ (abortDma s).mem = s.mem ∧
    (abortDma s).now = s.now ∧ (abortDma s).flashOk = s.flashOk ∧ (abortDma s).env = s.env ∧
    (abortDma s).epoch = s.epoch ∧ (abortDma s).free = s.free ∧
    (abortDma s).spare = s.spare ∧ (abortDma s).race = s.race :=
    ⟨rfl, rfl, rfl, rfl, rfl, rfl, rfl, rfl, rfl, rfl, rfl, rfl, rfl, rfl, rfl, rfl, rfl, rfl, rfl, rfl, rfl, rfl⟩

@[simp] theorem orphanCtx_keeps (s : State) :
    (orphanCtx s).ctx = s.ctx ∧ (orphanCtx s).sense = s.sense ∧ (orphanCtx s).link = s.link ∧
    (orphanCtx s).usb = s.usb ∧ (orphanCtx s).ctl = s.ctl ∧ (orphanCtx s).ev = s.ev ∧ (orphanCtx s).dma = s.dma ∧
    (orphanCtx s).faults = s.faults ∧ (orphanCtx s).fw = s.fw ∧ (orphanCtx s).phy = s.phy ∧
    (orphanCtx s).seq = s.seq ∧ (orphanCtx s).ctrlLen = s.ctrlLen ∧ (orphanCtx s).usbOut = s.usbOut ∧
    (orphanCtx s).usbIn = s.usbIn ∧ (orphanCtx s).mem = s.mem ∧ (orphanCtx s).now = s.now ∧
    (orphanCtx s).flashOk = s.flashOk ∧ (orphanCtx s).env = s.env ∧ (orphanCtx s).epoch = s.epoch ∧
    (orphanCtx s).free = s.free ∧
    (orphanCtx s).spare = s.spare ∧ (orphanCtx s).race = s.race :=
    ⟨rfl, rfl, rfl, rfl, rfl, rfl, rfl, rfl, rfl, rfl, rfl, rfl, rfl, rfl, rfl, rfl, rfl, rfl, rfl, rfl, rfl, rfl⟩

@[simp] theorem haltOut_keeps (s : State) :
    (haltOut s).ctx = s.ctx ∧ (haltOut s).sense = s.sense ∧ (haltOut s).link = s.link ∧ (haltOut s).ctl = s.ctl ∧
    (haltOut s).ev = s.ev ∧ (haltOut s).nvme = s.nvme ∧ (haltOut s).dma = s.dma ∧ (haltOut s).faults = s.faults ∧
    (haltOut s).fw = s.fw ∧ (haltOut s).phy = s.phy ∧ (haltOut s).seq = s.seq ∧ (haltOut s).ctrlLen = s.ctrlLen ∧
    (haltOut s).usbIn = s.usbIn ∧ (haltOut s).mem = s.mem ∧ (haltOut s).now = s.now ∧
    (haltOut s).flashOk = s.flashOk ∧ (haltOut s).env = s.env ∧ (haltOut s).epoch = s.epoch ∧
    (haltOut s).free = s.free ∧
    (haltOut s).spare = s.spare ∧ (haltOut s).race = s.race :=
    ⟨rfl, rfl, rfl, rfl, rfl, rfl, rfl, rfl, rfl, rfl, rfl, rfl, rfl, rfl, rfl, rfl, rfl, rfl, rfl, rfl, rfl⟩

@[simp] theorem haltIn_keeps (s : State) :
    (haltIn s).ctx = s.ctx ∧ (haltIn s).sense = s.sense ∧ (haltIn s).link = s.link ∧ (haltIn s).ctl = s.ctl ∧
    (haltIn s).ev = s.ev ∧ (haltIn s).nvme = s.nvme ∧ (haltIn s).dma = s.dma ∧ (haltIn s).faults = s.faults ∧
    (haltIn s).fw = s.fw ∧ (haltIn s).phy = s.phy ∧ (haltIn s).seq = s.seq ∧ (haltIn s).ctrlLen = s.ctrlLen ∧
    (haltIn s).usbOut = s.usbOut ∧ (haltIn s).mem = s.mem ∧ (haltIn s).now = s.now ∧ (haltIn s).flashOk = s.flashOk ∧
    (haltIn s).env = s.env ∧ (haltIn s).epoch = s.epoch ∧ (haltIn s).free = s.free ∧
    (haltIn s).spare = s.spare ∧ (haltIn s).race = s.race :=
    ⟨rfl, rfl, rfl, rfl, rfl, rfl, rfl, rfl, rfl, rfl, rfl, rfl, rfl, rfl, rfl, rfl, rfl, rfl, rfl, rfl, rfl⟩

@[simp] theorem armOut_keeps (a : OutArmed) (s : State) :
    (armOut a s).ctx = s.ctx ∧ (armOut a s).sense = s.sense ∧ (armOut a s).link = s.link ∧ (armOut a s).ctl = s.ctl ∧
    (armOut a s).ev = s.ev ∧ (armOut a s).nvme = s.nvme ∧ (armOut a s).dma = s.dma ∧ (armOut a s).faults = s.faults ∧
    (armOut a s).fw = s.fw ∧ (armOut a s).phy = s.phy ∧ (armOut a s).seq = s.seq ∧ (armOut a s).ctrlLen = s.ctrlLen ∧
    (armOut a s).usbOut = s.usbOut ∧ (armOut a s).usbIn = s.usbIn ∧ (armOut a s).mem = s.mem ∧
    (armOut a s).now = s.now ∧ (armOut a s).flashOk = s.flashOk ∧ (armOut a s).env = s.env ∧
    (armOut a s).epoch = s.epoch ∧ (armOut a s).free = s.free ∧
    (armOut a s).spare = s.spare ∧ (armOut a s).race = s.race :=
    ⟨rfl, rfl, rfl, rfl, rfl, rfl, rfl, rfl, rfl, rfl, rfl, rfl, rfl, rfl, rfl, rfl, rfl, rfl, rfl, rfl, rfl, rfl⟩

@[simp] theorem endIteration_keeps (s : State) :
    (endIteration s).ctx = s.ctx ∧ (endIteration s).sense = s.sense ∧ (endIteration s).link = s.link ∧
    (endIteration s).usb = s.usb ∧ (endIteration s).ctl = s.ctl ∧ (endIteration s).ev = s.ev ∧
    (endIteration s).nvme = s.nvme ∧ (endIteration s).dma = s.dma ∧ (endIteration s).faults = s.faults ∧
    (endIteration s).fw = s.fw ∧ (endIteration s).phy = s.phy ∧ (endIteration s).ctrlLen = s.ctrlLen ∧
    (endIteration s).usbOut = s.usbOut ∧ (endIteration s).usbIn = s.usbIn ∧ (endIteration s).mem = s.mem ∧
    (endIteration s).now = s.now ∧ (endIteration s).flashOk = s.flashOk ∧ (endIteration s).env = s.env ∧
    (endIteration s).epoch = s.epoch ∧ (endIteration s).free = s.free ∧
    (endIteration s).spare = s.spare ∧ (endIteration s).race = s.race :=
    ⟨rfl, rfl, rfl, rfl, rfl, rfl, rfl, rfl, rfl, rfl, rfl, rfl, rfl, rfl, rfl, rfl, rfl, rfl, rfl, rfl, rfl, rfl⟩

@[simp] theorem handCsw_keeps (s : State) :
    (handCsw s).sense = s.sense ∧ (handCsw s).link = s.link ∧ (handCsw s).ctl = s.ctl ∧ (handCsw s).ev = s.ev ∧
    (handCsw s).nvme = s.nvme ∧ (handCsw s).dma = s.dma ∧ (handCsw s).faults = s.faults ∧ (handCsw s).fw = s.fw ∧
    (handCsw s).phy = s.phy ∧ (handCsw s).seq = s.seq ∧ (handCsw s).ctrlLen = s.ctrlLen ∧
    (handCsw s).usbOut = s.usbOut ∧ (handCsw s).now = s.now ∧ (handCsw s).flashOk = s.flashOk ∧
    (handCsw s).env = s.env ∧ (handCsw s).epoch = s.epoch ∧ (handCsw s).free = s.free ∧
    (handCsw s).spare = s.spare ∧ (handCsw s).race = s.race :=
    ⟨rfl, rfl, rfl, rfl, rfl, rfl, rfl, rfl, rfl, rfl, rfl, rfl, rfl, rfl, rfl, rfl, rfl, rfl, rfl⟩

@[simp] theorem finish_keeps (st : BitVec 8) (s : State) :
    (finish st s).sense = s.sense ∧ (finish st s).link = s.link ∧ (finish st s).ctl = s.ctl ∧
    (finish st s).ev = s.ev ∧ (finish st s).nvme = s.nvme ∧ (finish st s).dma = s.dma ∧
    (finish st s).faults = s.faults ∧ (finish st s).fw = s.fw ∧ (finish st s).phy = s.phy ∧
    (finish st s).seq = s.seq ∧ (finish st s).ctrlLen = s.ctrlLen ∧ (finish st s).usbOut = s.usbOut ∧
    (finish st s).now = s.now ∧ (finish st s).flashOk = s.flashOk ∧ (finish st s).env = s.env ∧
    (finish st s).epoch = s.epoch ∧ (finish st s).free = s.free ∧
    (finish st s).spare = s.spare ∧ (finish st s).race = s.race :=
    ⟨rfl, rfl, rfl, rfl, rfl, rfl, rfl, rfl, rfl, rfl, rfl, rfl, rfl, rfl, rfl, rfl, rfl, rfl, rfl⟩

@[simp] theorem checkCondition_keeps (x : Sense) (s : State) :
    (checkCondition x s).link = s.link ∧ (checkCondition x s).ctl = s.ctl ∧ (checkCondition x s).ev = s.ev ∧
    (checkCondition x s).dma = s.dma ∧ (checkCondition x s).faults = s.faults ∧ (checkCondition x s).fw = s.fw ∧
    (checkCondition x s).phy = s.phy ∧ (checkCondition x s).seq = s.seq ∧ (checkCondition x s).ctrlLen = s.ctrlLen ∧
    (checkCondition x s).usbOut = s.usbOut ∧ (checkCondition x s).now = s.now ∧
    (checkCondition x s).flashOk = s.flashOk ∧ (checkCondition x s).env = s.env ∧
    (checkCondition x s).epoch = s.epoch ∧ (checkCondition x s).free = s.free ∧
    (checkCondition x s).spare = s.spare ∧ (checkCondition x s).race = s.race :=
    ⟨rfl, rfl, rfl, rfl, rfl, rfl, rfl, rfl, rfl, rfl, rfl, rfl, rfl, rfl, rfl, rfl, rfl⟩

@[simp] theorem vendorError_keeps (s : State) :
    (vendorError s).sense = s.sense ∧ (vendorError s).link = s.link ∧ (vendorError s).ctl = s.ctl ∧
    (vendorError s).ev = s.ev ∧ (vendorError s).dma = s.dma ∧ (vendorError s).faults = s.faults ∧
    (vendorError s).fw = s.fw ∧ (vendorError s).phy = s.phy ∧ (vendorError s).seq = s.seq ∧
    (vendorError s).ctrlLen = s.ctrlLen ∧ (vendorError s).usbOut = s.usbOut ∧ (vendorError s).now = s.now ∧
    (vendorError s).flashOk = s.flashOk ∧ (vendorError s).env = s.env ∧ (vendorError s).epoch = s.epoch ∧
    (vendorError s).free = s.free ∧
    (vendorError s).spare = s.spare ∧ (vendorError s).race = s.race :=
    ⟨rfl, rfl, rfl, rfl, rfl, rfl, rfl, rfl, rfl, rfl, rfl, rfl, rfl, rfl, rfl, rfl, rfl, rfl⟩

@[simp] theorem phaseError_keeps (s : State) :
    (phaseError s).link = s.link ∧ (phaseError s).ctl = s.ctl ∧ (phaseError s).ev = s.ev ∧
    (phaseError s).nvme = s.nvme ∧ (phaseError s).dma = s.dma ∧ (phaseError s).faults = s.faults ∧
    (phaseError s).fw = s.fw ∧ (phaseError s).phy = s.phy ∧ (phaseError s).seq = s.seq ∧
    (phaseError s).ctrlLen = s.ctrlLen ∧ (phaseError s).usbOut = s.usbOut ∧ (phaseError s).now = s.now ∧
    (phaseError s).flashOk = s.flashOk ∧ (phaseError s).env = s.env ∧ (phaseError s).epoch = s.epoch ∧
    (phaseError s).free = s.free ∧
    (phaseError s).spare = s.spare ∧ (phaseError s).race = s.race :=
    ⟨rfl, rfl, rfl, rfl, rfl, rfl, rfl, rfl, rfl, rfl, rfl, rfl, rfl, rfl, rfl, rfl, rfl, rfl⟩

@[simp] theorem haltBoth_keeps (s : State) :
    (haltBoth s).sense = s.sense ∧ (haltBoth s).link = s.link ∧ (haltBoth s).ctl = s.ctl ∧ (haltBoth s).ev = s.ev ∧
    (haltBoth s).nvme = s.nvme ∧ (haltBoth s).dma = s.dma ∧ (haltBoth s).faults = s.faults ∧ (haltBoth s).fw = s.fw ∧
    (haltBoth s).phy = s.phy ∧ (haltBoth s).seq = s.seq ∧ (haltBoth s).ctrlLen = s.ctrlLen ∧
    (haltBoth s).mem = s.mem ∧ (haltBoth s).now = s.now ∧ (haltBoth s).flashOk = s.flashOk ∧
    (haltBoth s).env = s.env ∧ (haltBoth s).epoch = s.epoch ∧ (haltBoth s).free = s.free ∧
    (haltBoth s).spare = s.spare ∧ (haltBoth s).race = s.race :=
    ⟨rfl, rfl, rfl, rfl, rfl, rfl, rfl, rfl, rfl, rfl, rfl, rfl, rfl, rfl, rfl, rfl, rfl, rfl, rfl⟩

@[simp] theorem invalidCbw_keeps (s : State) :
    (invalidCbw s).link = s.link ∧ (invalidCbw s).ctl = s.ctl ∧ (invalidCbw s).ev = s.ev ∧
    (invalidCbw s).nvme = s.nvme ∧ (invalidCbw s).dma = s.dma ∧ (invalidCbw s).faults = s.faults ∧
    (invalidCbw s).fw = s.fw ∧ (invalidCbw s).phy = s.phy ∧ (invalidCbw s).seq = s.seq ∧
    (invalidCbw s).ctrlLen = s.ctrlLen ∧ (invalidCbw s).mem = s.mem ∧ (invalidCbw s).now = s.now ∧
    (invalidCbw s).flashOk = s.flashOk ∧ (invalidCbw s).env = s.env ∧ (invalidCbw s).epoch = s.epoch ∧
    (invalidCbw s).free = s.free ∧
    (invalidCbw s).spare = s.spare ∧ (invalidCbw s).race = s.race :=
    ⟨rfl, rfl, rfl, rfl, rfl, rfl, rfl, rfl, rfl, rfl, rfl, rfl, rfl, rfl, rfl, rfl, rfl, rfl⟩

@[simp] theorem appendFault_keeps (c : FaultCode) (s : State) :
    (appendFault c s).ctx = s.ctx ∧ (appendFault c s).sense = s.sense ∧ (appendFault c s).link = s.link ∧
    (appendFault c s).usb = s.usb ∧ (appendFault c s).ctl = s.ctl ∧ (appendFault c s).ev = s.ev ∧
    (appendFault c s).nvme = s.nvme ∧ (appendFault c s).dma = s.dma ∧ (appendFault c s).fw = s.fw ∧
    (appendFault c s).phy = s.phy ∧ (appendFault c s).seq = s.seq ∧ (appendFault c s).ctrlLen = s.ctrlLen ∧
    (appendFault c s).usbOut = s.usbOut ∧ (appendFault c s).usbIn = s.usbIn ∧ (appendFault c s).mem = s.mem ∧
    (appendFault c s).now = s.now ∧ (appendFault c s).flashOk = s.flashOk ∧ (appendFault c s).env = s.env ∧
    (appendFault c s).epoch = s.epoch ∧ (appendFault c s).free = s.free ∧
    (appendFault c s).spare = s.spare ∧ (appendFault c s).race = s.race :=
    ⟨rfl, rfl, rfl, rfl, rfl, rfl, rfl, rfl, rfl, rfl, rfl, rfl, rfl, rfl, rfl, rfl, rfl, rfl, rfl, rfl, rfl, rfl⟩

@[simp] theorem dropContext_keeps (s : State) :
    (dropContext s).sense = s.sense ∧ (dropContext s).link = s.link ∧ (dropContext s).usb = s.usb ∧
    (dropContext s).ctl = s.ctl ∧ (dropContext s).ev = s.ev ∧ (dropContext s).faults = s.faults ∧
    (dropContext s).fw = s.fw ∧ (dropContext s).phy = s.phy ∧ (dropContext s).seq = s.seq ∧
    (dropContext s).ctrlLen = s.ctrlLen ∧ (dropContext s).usbOut = s.usbOut ∧ (dropContext s).usbIn = s.usbIn ∧
    (dropContext s).mem = s.mem ∧ (dropContext s).now = s.now ∧ (dropContext s).flashOk = s.flashOk ∧
    (dropContext s).env = s.env ∧ (dropContext s).epoch = s.epoch ∧ (dropContext s).free = s.free ∧
    (dropContext s).spare = s.spare ∧ (dropContext s).race = s.race :=
    ⟨rfl, rfl, rfl, rfl, rfl, rfl, rfl, rfl, rfl, rfl, rfl, rfl, rfl, rfl, rfl, rfl, rfl, rfl, rfl, rfl⟩

@[simp] theorem clearUsb_keeps (s : State) :
    (clearUsb s).sense = s.sense ∧ (clearUsb s).faults = s.faults ∧ (clearUsb s).fw = s.fw ∧
    (clearUsb s).phy = s.phy ∧ (clearUsb s).seq = s.seq ∧ (clearUsb s).ctrlLen = s.ctrlLen ∧
    (clearUsb s).mem = s.mem ∧ (clearUsb s).now = s.now ∧ (clearUsb s).flashOk = s.flashOk ∧
    (clearUsb s).env = s.env ∧ (clearUsb s).epoch = s.epoch ∧ (clearUsb s).free = s.free ∧
    (clearUsb s).spare = s.spare ∧ (clearUsb s).race = s.race :=
    ⟨rfl, rfl, rfl, rfl, rfl, rfl, rfl, rfl, rfl, rfl, rfl, rfl, rfl, rfl⟩

@[simp] theorem writeLinkReset_keeps (s : State) :
    (writeLinkReset s).ctx = s.ctx ∧ (writeLinkReset s).sense = s.sense ∧ (writeLinkReset s).link = s.link ∧
    (writeLinkReset s).usb = s.usb ∧ (writeLinkReset s).ctl = s.ctl ∧ (writeLinkReset s).ev = s.ev ∧
    (writeLinkReset s).nvme = s.nvme ∧ (writeLinkReset s).dma = s.dma ∧ (writeLinkReset s).faults = s.faults ∧
    (writeLinkReset s).fw = s.fw ∧ (writeLinkReset s).seq = s.seq ∧ (writeLinkReset s).ctrlLen = s.ctrlLen ∧
    (writeLinkReset s).usbOut = s.usbOut ∧ (writeLinkReset s).usbIn = s.usbIn ∧ (writeLinkReset s).mem = s.mem ∧
    (writeLinkReset s).now = s.now ∧ (writeLinkReset s).flashOk = s.flashOk ∧ (writeLinkReset s).env = s.env ∧
    (writeLinkReset s).epoch = s.epoch ∧ (writeLinkReset s).free = s.free ∧
    (writeLinkReset s).spare = s.spare ∧ (writeLinkReset s).race = s.race :=
    ⟨rfl, rfl, rfl, rfl, rfl, rfl, rfl, rfl, rfl, rfl, rfl, rfl, rfl, rfl, rfl, rfl, rfl, rfl, rfl, rfl, rfl, rfl⟩

@[simp] theorem resetNvme_keeps (s : State) :
    (resetNvme s).ctx = s.ctx ∧ (resetNvme s).sense = s.sense ∧ (resetNvme s).link = s.link ∧
    (resetNvme s).usb = s.usb ∧ (resetNvme s).ctl = s.ctl ∧ (resetNvme s).ev = s.ev ∧ (resetNvme s).dma = s.dma ∧
    (resetNvme s).faults = s.faults ∧ (resetNvme s).fw = s.fw ∧ (resetNvme s).phy = s.phy ∧
    (resetNvme s).seq = s.seq ∧ (resetNvme s).ctrlLen = s.ctrlLen ∧ (resetNvme s).usbOut = s.usbOut ∧
    (resetNvme s).usbIn = s.usbIn ∧ (resetNvme s).now = s.now ∧ (resetNvme s).flashOk = s.flashOk ∧
    (resetNvme s).env = s.env ∧ (resetNvme s).epoch = s.epoch ∧ (resetNvme s).free = s.free ∧
    (resetNvme s).spare = s.spare ∧ (resetNvme s).race = s.race :=
    ⟨rfl, rfl, rfl, rfl, rfl, rfl, rfl, rfl, rfl, rfl, rfl, rfl, rfl, rfl, rfl, rfl, rfl, rfl, rfl, rfl, rfl⟩

@[simp] theorem powerOn_keeps (s : State) :
    (powerOn s).now = s.now ∧ (powerOn s).flashOk = s.flashOk ∧ (powerOn s).env = s.env ∧ (powerOn s).free = s.free ∧
    (powerOn s).race = s.race :=
    ⟨rfl, rfl, rfl, rfl, rfl⟩

@[simp] theorem recover_keeps (s : State) :
    (recover s).sense = s.sense ∧ (recover s).faults = s.faults ∧ (recover s).seq = s.seq ∧
    (recover s).ctrlLen = s.ctrlLen ∧ (recover s).now = s.now ∧ (recover s).flashOk = s.flashOk ∧
    (recover s).env = s.env ∧ (recover s).epoch = s.epoch ∧ (recover s).free = s.free ∧
    (recover s).spare = s.spare ∧ (recover s).race = s.race ∧ (recover s).mem = s.mem.clearQueues :=
    ⟨rfl, rfl, rfl, rfl, rfl, rfl, rfl, rfl, rfl, rfl, rfl, rfl⟩

@[simp] theorem ctlBegin_keeps (s : State) :
    (ctlBegin s).ctx = s.ctx ∧ (ctlBegin s).sense = s.sense ∧ (ctlBegin s).link = s.link ∧ (ctlBegin s).usb = s.usb ∧
    (ctlBegin s).ev = s.ev ∧ (ctlBegin s).nvme = s.nvme ∧ (ctlBegin s).dma = s.dma ∧ (ctlBegin s).faults = s.faults ∧
    (ctlBegin s).fw = s.fw ∧ (ctlBegin s).phy = s.phy ∧ (ctlBegin s).seq = s.seq ∧ (ctlBegin s).ctrlLen = s.ctrlLen ∧
    (ctlBegin s).usbOut = s.usbOut ∧ (ctlBegin s).usbIn = s.usbIn ∧ (ctlBegin s).mem = s.mem ∧
    (ctlBegin s).now = s.now ∧ (ctlBegin s).flashOk = s.flashOk ∧ (ctlBegin s).env = s.env ∧
    (ctlBegin s).epoch = s.epoch ∧ (ctlBegin s).free = s.free ∧
    (ctlBegin s).spare = s.spare ∧ (ctlBegin s).race = s.race :=
    ⟨rfl, rfl, rfl, rfl, rfl, rfl, rfl, rfl, rfl, rfl, rfl, rfl, rfl, rfl, rfl, rfl, rfl, rfl, rfl, rfl, rfl, rfl⟩

@[simp] theorem ctlAccept_keeps (b : Bool) (l : BitVec 16) (s : State) :
    (ctlAccept b l s).ctx = s.ctx ∧ (ctlAccept b l s).sense = s.sense ∧ (ctlAccept b l s).link = s.link ∧
    (ctlAccept b l s).usb = s.usb ∧ (ctlAccept b l s).nvme = s.nvme ∧ (ctlAccept b l s).dma = s.dma ∧
    (ctlAccept b l s).faults = s.faults ∧ (ctlAccept b l s).fw = s.fw ∧ (ctlAccept b l s).phy = s.phy ∧
    (ctlAccept b l s).seq = s.seq ∧ (ctlAccept b l s).ctrlLen = s.ctrlLen ∧ (ctlAccept b l s).usbOut = s.usbOut ∧
    (ctlAccept b l s).usbIn = s.usbIn ∧ (ctlAccept b l s).mem = s.mem ∧ (ctlAccept b l s).now = s.now ∧
    (ctlAccept b l s).flashOk = s.flashOk ∧ (ctlAccept b l s).env = s.env ∧ (ctlAccept b l s).epoch = s.epoch ∧
    (ctlAccept b l s).free = s.free ∧
    (ctlAccept b l s).spare = s.spare ∧ (ctlAccept b l s).race = s.race :=
    ⟨rfl, rfl, rfl, rfl, rfl, rfl, rfl, rfl, rfl, rfl, rfl, rfl, rfl, rfl, rfl, rfl, rfl, rfl, rfl, rfl, rfl⟩

@[simp] theorem ep0Stall_keeps (s : State) :
    (ep0Stall s).ctx = s.ctx ∧ (ep0Stall s).sense = s.sense ∧ (ep0Stall s).link = s.link ∧
    (ep0Stall s).nvme = s.nvme ∧ (ep0Stall s).dma = s.dma ∧ (ep0Stall s).faults = s.faults ∧ (ep0Stall s).fw = s.fw ∧
    (ep0Stall s).phy = s.phy ∧ (ep0Stall s).seq = s.seq ∧ (ep0Stall s).ctrlLen = s.ctrlLen ∧
    (ep0Stall s).usbOut = s.usbOut ∧ (ep0Stall s).usbIn = s.usbIn ∧ (ep0Stall s).mem = s.mem ∧
    (ep0Stall s).now = s.now ∧ (ep0Stall s).flashOk = s.flashOk ∧ (ep0Stall s).env = s.env ∧
    (ep0Stall s).epoch = s.epoch ∧ (ep0Stall s).free = s.free ∧
    (ep0Stall s).spare = s.spare ∧ (ep0Stall s).race = s.race :=
    ⟨rfl, rfl, rfl, rfl, rfl, rfl, rfl, rfl, rfl, rfl, rfl, rfl, rfl, rfl, rfl, rfl, rfl, rfl, rfl, rfl⟩

@[simp] theorem dmaSetup_keeps (d : DmaDir) (n : Nat) (s : State) :
    (dmaSetup d n s).ctx = s.ctx ∧ (dmaSetup d n s).sense = s.sense ∧ (dmaSetup d n s).link = s.link ∧
    (dmaSetup d n s).usb = s.usb ∧ (dmaSetup d n s).ctl = s.ctl ∧ (dmaSetup d n s).ev = s.ev ∧
    (dmaSetup d n s).nvme = s.nvme ∧ (dmaSetup d n s).faults = s.faults ∧ (dmaSetup d n s).fw = s.fw ∧
    (dmaSetup d n s).phy = s.phy ∧ (dmaSetup d n s).seq = s.seq ∧ (dmaSetup d n s).ctrlLen = s.ctrlLen ∧
    (dmaSetup d n s).usbOut = s.usbOut ∧ (dmaSetup d n s).usbIn = s.usbIn ∧ (dmaSetup d n s).mem = s.mem ∧
    (dmaSetup d n s).now = s.now ∧ (dmaSetup d n s).flashOk = s.flashOk ∧ (dmaSetup d n s).env = s.env ∧
    (dmaSetup d n s).epoch = s.epoch ∧ (dmaSetup d n s).free = s.free ∧
    (dmaSetup d n s).race = s.race :=
    ⟨rfl, rfl, rfl, rfl, rfl, rfl, rfl, rfl, rfl, rfl, rfl, rfl, rfl, rfl, rfl, rfl, rfl, rfl, rfl, rfl, rfl⟩

@[simp] theorem dmaWait_keeps (r : Resume) (s : State) :
    (dmaWait r s).ctx = s.ctx ∧ (dmaWait r s).sense = s.sense ∧ (dmaWait r s).link = s.link ∧
    (dmaWait r s).usb = s.usb ∧ (dmaWait r s).ctl = s.ctl ∧ (dmaWait r s).ev = s.ev ∧ (dmaWait r s).nvme = s.nvme ∧
    (dmaWait r s).dma = s.dma ∧ (dmaWait r s).faults = s.faults ∧ (dmaWait r s).fw = s.fw ∧
    (dmaWait r s).phy = s.phy ∧ (dmaWait r s).ctrlLen = s.ctrlLen ∧ (dmaWait r s).usbOut = s.usbOut ∧
    (dmaWait r s).usbIn = s.usbIn ∧ (dmaWait r s).mem = s.mem ∧ (dmaWait r s).now = s.now ∧
    (dmaWait r s).flashOk = s.flashOk ∧ (dmaWait r s).env = s.env ∧ (dmaWait r s).epoch = s.epoch ∧
    (dmaWait r s).free = s.free ∧
    (dmaWait r s).spare = s.spare ∧ (dmaWait r s).race = s.race :=
    ⟨rfl, rfl, rfl, rfl, rfl, rfl, rfl, rfl, rfl, rfl, rfl, rfl, rfl, rfl, rfl, rfl, rfl, rfl, rfl, rfl, rfl, rfl⟩

@[simp] theorem sendChunk_keeps (n : Nat) (s : State) :
    (sendChunk n s).sense = s.sense ∧ (sendChunk n s).link = s.link ∧ (sendChunk n s).usb = s.usb ∧
    (sendChunk n s).ctl = s.ctl ∧ (sendChunk n s).ev = s.ev ∧ (sendChunk n s).nvme = s.nvme ∧
    (sendChunk n s).faults = s.faults ∧ (sendChunk n s).fw = s.fw ∧ (sendChunk n s).phy = s.phy ∧
    (sendChunk n s).ctrlLen = s.ctrlLen ∧ (sendChunk n s).usbOut = s.usbOut ∧ (sendChunk n s).usbIn = s.usbIn ∧
    (sendChunk n s).mem = s.mem ∧ (sendChunk n s).now = s.now ∧ (sendChunk n s).flashOk = s.flashOk ∧
    (sendChunk n s).env = s.env ∧ (sendChunk n s).epoch = s.epoch ∧ (sendChunk n s).free = s.free ∧
    (sendChunk n s).race = s.race :=
    ⟨rfl, rfl, rfl, rfl, rfl, rfl, rfl, rfl, rfl, rfl, rfl, rfl, rfl, rfl, rfl, rfl, rfl, rfl, rfl⟩

@[simp] theorem latchCbw_keeps (b : Bytes) (s : State) :
    (latchCbw b s).sense = s.sense ∧ (latchCbw b s).link = s.link ∧
    (latchCbw b s).ctl = s.ctl ∧ (latchCbw b s).ev = s.ev ∧ (latchCbw b s).nvme = s.nvme ∧
    (latchCbw b s).dma = s.dma ∧ (latchCbw b s).faults = s.faults ∧ (latchCbw b s).fw = s.fw ∧
    (latchCbw b s).phy = s.phy ∧ (latchCbw b s).seq = s.seq ∧ (latchCbw b s).ctrlLen = s.ctrlLen ∧
    (latchCbw b s).usbOut = s.usbOut ∧ (latchCbw b s).usbIn = s.usbIn ∧ (latchCbw b s).mem = s.mem ∧
    (latchCbw b s).now = s.now ∧ (latchCbw b s).flashOk = s.flashOk ∧ (latchCbw b s).env = s.env ∧
    (latchCbw b s).epoch = s.epoch ∧ (latchCbw b s).free = s.free ∧
    (latchCbw b s).spare = s.spare ∧ (latchCbw b s).race = s.race :=
    ⟨rfl, rfl, rfl, rfl, rfl, rfl, rfl, rfl, rfl, rfl, rfl, rfl, rfl, rfl, rfl, rfl, rfl, rfl, rfl, rfl, rfl⟩

@[simp] theorem setSlot_keeps (i : Nat) (x : Slot) (s : State) :
    (setSlot i x s).ctx = s.ctx ∧ (setSlot i x s).sense = s.sense ∧ (setSlot i x s).link = s.link ∧
    (setSlot i x s).usb = s.usb ∧ (setSlot i x s).ctl = s.ctl ∧ (setSlot i x s).ev = s.ev ∧
    (setSlot i x s).dma = s.dma ∧ (setSlot i x s).faults = s.faults ∧ (setSlot i x s).fw = s.fw ∧
    (setSlot i x s).phy = s.phy ∧ (setSlot i x s).seq = s.seq ∧ (setSlot i x s).ctrlLen = s.ctrlLen ∧
    (setSlot i x s).usbOut = s.usbOut ∧ (setSlot i x s).usbIn = s.usbIn ∧ (setSlot i x s).mem = s.mem ∧
    (setSlot i x s).now = s.now ∧ (setSlot i x s).flashOk = s.flashOk ∧ (setSlot i x s).env = s.env ∧
    (setSlot i x s).epoch = s.epoch ∧ (setSlot i x s).free = s.free ∧
    (setSlot i x s).spare = s.spare ∧ (setSlot i x s).race = s.race :=
    ⟨rfl, rfl, rfl, rfl, rfl, rfl, rfl, rfl, rfl, rfl, rfl, rfl, rfl, rfl, rfl, rfl, rfl, rfl, rfl, rfl, rfl, rfl⟩

@[simp] theorem issue_keeps (i : Nat) (s : State) :
    (issue i s).ctx = s.ctx ∧ (issue i s).sense = s.sense ∧ (issue i s).link = s.link ∧ (issue i s).usb = s.usb ∧
    (issue i s).ctl = s.ctl ∧ (issue i s).ev = s.ev ∧ (issue i s).dma = s.dma ∧ (issue i s).faults = s.faults ∧
    (issue i s).fw = s.fw ∧ (issue i s).phy = s.phy ∧ (issue i s).seq = s.seq ∧ (issue i s).ctrlLen = s.ctrlLen ∧
    (issue i s).usbOut = s.usbOut ∧ (issue i s).usbIn = s.usbIn ∧ (issue i s).now = s.now ∧
    (issue i s).flashOk = s.flashOk ∧ (issue i s).env = s.env ∧ (issue i s).epoch = s.epoch ∧
    (issue i s).free = s.free ∧
    (issue i s).spare = s.spare ∧ (issue i s).race = s.race :=
    ⟨rfl, rfl, rfl, rfl, rfl, rfl, rfl, rfl, rfl, rfl, rfl, rfl, rfl, rfl, rfl, rfl, rfl, rfl, rfl, rfl, rfl⟩

@[simp] theorem release_keeps (i : Nat) (s : State) :
    (release i s).ctx = s.ctx ∧ (release i s).sense = s.sense ∧ (release i s).link = s.link ∧
    (release i s).usb = s.usb ∧ (release i s).ctl = s.ctl ∧ (release i s).ev = s.ev ∧ (release i s).dma = s.dma ∧
    (release i s).faults = s.faults ∧ (release i s).fw = s.fw ∧ (release i s).phy = s.phy ∧
    (release i s).seq = s.seq ∧ (release i s).ctrlLen = s.ctrlLen ∧ (release i s).usbOut = s.usbOut ∧
    (release i s).usbIn = s.usbIn ∧ (release i s).mem = s.mem ∧ (release i s).now = s.now ∧
    (release i s).flashOk = s.flashOk ∧ (release i s).env = s.env ∧ (release i s).epoch = s.epoch ∧
    (release i s).free = s.free ∧
    (release i s).spare = s.spare ∧ (release i s).race = s.race :=
    ⟨rfl, rfl, rfl, rfl, rfl, rfl, rfl, rfl, rfl, rfl, rfl, rfl, rfl, rfl, rfl, rfl, rfl, rfl, rfl, rfl, rfl, rfl⟩

@[simp] theorem initFail_keeps (s : State) :
    (initFail s).ctx = s.ctx ∧ (initFail s).sense = s.sense ∧ (initFail s).link = s.link ∧ (initFail s).usb = s.usb ∧
    (initFail s).ctl = s.ctl ∧ (initFail s).ev = s.ev ∧ (initFail s).dma = s.dma ∧ (initFail s).fw = s.fw ∧
    (initFail s).phy = s.phy ∧ (initFail s).seq = s.seq ∧ (initFail s).ctrlLen = s.ctrlLen ∧
    (initFail s).usbOut = s.usbOut ∧ (initFail s).usbIn = s.usbIn ∧ (initFail s).mem = s.mem ∧
    (initFail s).now = s.now ∧ (initFail s).flashOk = s.flashOk ∧ (initFail s).env = s.env ∧
    (initFail s).epoch = s.epoch ∧ (initFail s).free = s.free ∧
    (initFail s).spare = s.spare ∧ (initFail s).race = s.race :=
    ⟨rfl, rfl, rfl, rfl, rfl, rfl, rfl, rfl, rfl, rfl, rfl, rfl, rfl, rfl, rfl, rfl, rfl, rfl, rfl, rfl, rfl⟩

@[simp] theorem goto_keeps (p : Pos) (s : State) :
    (goto p s).ctx = s.ctx ∧ (goto p s).sense = s.sense ∧ (goto p s).link = s.link ∧ (goto p s).usb = s.usb ∧
    (goto p s).ctl = s.ctl ∧ (goto p s).ev = s.ev ∧ (goto p s).nvme = s.nvme ∧ (goto p s).dma = s.dma ∧
    (goto p s).faults = s.faults ∧ (goto p s).fw = s.fw ∧ (goto p s).phy = s.phy ∧ (goto p s).ctrlLen = s.ctrlLen ∧
    (goto p s).usbOut = s.usbOut ∧ (goto p s).usbIn = s.usbIn ∧ (goto p s).mem = s.mem ∧ (goto p s).now = s.now ∧
    (goto p s).flashOk = s.flashOk ∧ (goto p s).env = s.env ∧ (goto p s).epoch = s.epoch ∧ (goto p s).free = s.free ∧
    (goto p s).spare = s.spare ∧ (goto p s).race = s.race :=
    ⟨rfl, rfl, rfl, rfl, rfl, rfl, rfl, rfl, rfl, rfl, rfl, rfl, rfl, rfl, rfl, rfl, rfl, rfl, rfl, rfl, rfl, rfl⟩

@[simp] theorem setEpBit_keeps (i : Nat) (s : State) :
    (setEpBit i s).ctx = s.ctx ∧ (setEpBit i s).sense = s.sense ∧ (setEpBit i s).link = s.link ∧
    (setEpBit i s).usb = s.usb ∧ (setEpBit i s).ctl = s.ctl ∧ (setEpBit i s).nvme = s.nvme ∧
    (setEpBit i s).dma = s.dma ∧ (setEpBit i s).faults = s.faults ∧ (setEpBit i s).fw = s.fw ∧
    (setEpBit i s).phy = s.phy ∧ (setEpBit i s).seq = s.seq ∧ (setEpBit i s).ctrlLen = s.ctrlLen ∧
    (setEpBit i s).usbOut = s.usbOut ∧ (setEpBit i s).usbIn = s.usbIn ∧ (setEpBit i s).mem = s.mem ∧
    (setEpBit i s).now = s.now ∧ (setEpBit i s).flashOk = s.flashOk ∧ (setEpBit i s).env = s.env ∧
    (setEpBit i s).epoch = s.epoch ∧ (setEpBit i s).free = s.free ∧
    (setEpBit i s).spare = s.spare ∧ (setEpBit i s).race = s.race :=
    ⟨rfl, rfl, rfl, rfl, rfl, rfl, rfl, rfl, rfl, rfl, rfl, rfl, rfl, rfl, rfl, rfl, rfl, rfl, rfl, rfl, rfl, rfl⟩

@[simp] theorem tickWork_keeps (s : State) :
    (tickWork s).ctx = s.ctx ∧ (tickWork s).sense = s.sense ∧ (tickWork s).usb = s.usb ∧ (tickWork s).ctl = s.ctl ∧
    (tickWork s).nvme = s.nvme ∧ (tickWork s).dma = s.dma ∧ (tickWork s).faults = s.faults ∧ (tickWork s).fw = s.fw ∧
    (tickWork s).phy = s.phy ∧ (tickWork s).seq = s.seq ∧ (tickWork s).ctrlLen = s.ctrlLen ∧
    (tickWork s).usbOut = s.usbOut ∧ (tickWork s).usbIn = s.usbIn ∧ (tickWork s).mem = s.mem ∧
    (tickWork s).now = s.now ∧ (tickWork s).flashOk = s.flashOk ∧ (tickWork s).env = s.env ∧
    (tickWork s).epoch = s.epoch ∧ (tickWork s).free = s.free ∧
    (tickWork s).spare = s.spare ∧ (tickWork s).race = s.race :=
    ⟨rfl, rfl, rfl, rfl, rfl, rfl, rfl, rfl, rfl, rfl, rfl, rfl, rfl, rfl, rfl, rfl, rfl, rfl, rfl, rfl, rfl⟩

@[simp] theorem flashProgram_keeps (a : Nat) (b : Bytes) (s : State) :
    (flashProgram a b s).ctx = s.ctx ∧ (flashProgram a b s).sense = s.sense ∧ (flashProgram a b s).link = s.link ∧
    (flashProgram a b s).usb = s.usb ∧ (flashProgram a b s).ctl = s.ctl ∧ (flashProgram a b s).ev = s.ev ∧
    (flashProgram a b s).nvme = s.nvme ∧ (flashProgram a b s).dma = s.dma ∧ (flashProgram a b s).faults = s.faults ∧
    (flashProgram a b s).fw = s.fw ∧ (flashProgram a b s).phy = s.phy ∧ (flashProgram a b s).seq = s.seq ∧
    (flashProgram a b s).ctrlLen = s.ctrlLen ∧ (flashProgram a b s).usbOut = s.usbOut ∧
    (flashProgram a b s).usbIn = s.usbIn ∧ (flashProgram a b s).now = s.now ∧
    (flashProgram a b s).flashOk = s.flashOk ∧ (flashProgram a b s).env = s.env ∧
    (flashProgram a b s).epoch = s.epoch ∧ (flashProgram a b s).free = s.free ∧
    (flashProgram a b s).spare = s.spare ∧ (flashProgram a b s).race = s.race :=
    ⟨rfl, rfl, rfl, rfl, rfl, rfl, rfl, rfl, rfl, rfl, rfl, rfl, rfl, rfl, rfl, rfl, rfl, rfl, rfl, rfl, rfl, rfl⟩

@[simp] theorem flashGarbage_keeps (a n : Nat) (s : State) :
    (flashGarbage a n s).ctx = s.ctx ∧ (flashGarbage a n s).sense = s.sense ∧ (flashGarbage a n s).link = s.link ∧
    (flashGarbage a n s).usb = s.usb ∧ (flashGarbage a n s).ctl = s.ctl ∧ (flashGarbage a n s).ev = s.ev ∧
    (flashGarbage a n s).nvme = s.nvme ∧ (flashGarbage a n s).dma = s.dma ∧ (flashGarbage a n s).faults = s.faults ∧
    (flashGarbage a n s).fw = s.fw ∧ (flashGarbage a n s).phy = s.phy ∧ (flashGarbage a n s).seq = s.seq ∧
    (flashGarbage a n s).ctrlLen = s.ctrlLen ∧ (flashGarbage a n s).usbOut = s.usbOut ∧
    (flashGarbage a n s).usbIn = s.usbIn ∧ (flashGarbage a n s).now = s.now ∧
    (flashGarbage a n s).flashOk = s.flashOk ∧ (flashGarbage a n s).env = s.env ∧
    (flashGarbage a n s).epoch = s.epoch ∧
    (flashGarbage a n s).spare = s.spare ∧ (flashGarbage a n s).race = s.race :=
    ⟨rfl, rfl, rfl, rfl, rfl, rfl, rfl, rfl, rfl, rfl, rfl, rfl, rfl, rfl, rfl, rfl, rfl, rfl, rfl, rfl, rfl⟩

@[simp] theorem advanceLba_keeps (n : Nat) (s : State) :
    (advanceLba n s).sense = s.sense ∧ (advanceLba n s).link = s.link ∧ (advanceLba n s).usb = s.usb ∧
    (advanceLba n s).ctl = s.ctl ∧ (advanceLba n s).ev = s.ev ∧ (advanceLba n s).nvme = s.nvme ∧
    (advanceLba n s).dma = s.dma ∧ (advanceLba n s).faults = s.faults ∧ (advanceLba n s).fw = s.fw ∧
    (advanceLba n s).phy = s.phy ∧ (advanceLba n s).seq = s.seq ∧ (advanceLba n s).ctrlLen = s.ctrlLen ∧
    (advanceLba n s).usbOut = s.usbOut ∧ (advanceLba n s).usbIn = s.usbIn ∧ (advanceLba n s).mem = s.mem ∧
    (advanceLba n s).now = s.now ∧ (advanceLba n s).flashOk = s.flashOk ∧ (advanceLba n s).env = s.env ∧
    (advanceLba n s).epoch = s.epoch ∧ (advanceLba n s).free = s.free ∧
    (advanceLba n s).spare = s.spare ∧ (advanceLba n s).race = s.race :=
    ⟨rfl, rfl, rfl, rfl, rfl, rfl, rfl, rfl, rfl, rfl, rfl, rfl, rfl, rfl, rfl, rfl, rfl, rfl, rfl, rfl, rfl, rfl⟩

/-- The entry actions of `LINK_TRAIN` write the three tunnel registers, whatever the hardware did to `TUN_CTRL` between the
halves of its read-modify-write. -/
theorem trainTunnel_phy (s : State) :
    (trainTunnel s).phy = { s.phy with
      tunByteEn := 0xFF
      tunLaneMap := Config.laneMap
      tunCtrl := rmwByte s.phy.tunCtrl (bitByte .bridgeEn true) (bitByte .bridgeEn true) } ∧
    (trainTunnel s).race = s.race.tail := by
  unfold trainTunnel
  rcases hwBetween_cases setTunCtrl { s with phy := { s.phy with tunByteEn := 0xFF, tunLaneMap := Config.laneMap } } with
    h | ⟨v, h⟩ <;> simp only [h] <;> exact ⟨rfl, rfl⟩

theorem trainTunnel_eq (s : State) :
    trainTunnel s = { s with phy := (trainTunnel s).phy, race := (trainTunnel s).race } := by
  unfold trainTunnel
  rcases hwBetween_cases setTunCtrl { s with phy := { s.phy with tunByteEn := 0xFF, tunLaneMap := Config.laneMap } } with
    h | ⟨v, h⟩ <;> simp only [h] <;> rfl

@[simp] theorem trainTunnel_keeps (s : State) :
    (trainTunnel s).ctx = s.ctx ∧ (trainTunnel s).sense = s.sense ∧ (trainTunnel s).link = s.link ∧
    (trainTunnel s).usb = s.usb ∧ (trainTunnel s).ctl = s.ctl ∧ (trainTunnel s).ev = s.ev ∧
    (trainTunnel s).nvme = s.nvme ∧ (trainTunnel s).dma = s.dma ∧ (trainTunnel s).faults = s.faults ∧
    (trainTunnel s).fw = s.fw ∧ (trainTunnel s).seq = s.seq ∧ (trainTunnel s).ctrlLen = s.ctrlLen ∧
    (trainTunnel s).usbOut = s.usbOut ∧ (trainTunnel s).usbIn = s.usbIn ∧ (trainTunnel s).mem = s.mem ∧
    (trainTunnel s).now = s.now ∧ (trainTunnel s).flashOk = s.flashOk ∧ (trainTunnel s).env = s.env ∧
    (trainTunnel s).epoch = s.epoch ∧ (trainTunnel s).free = s.free ∧
    (trainTunnel s).spare = s.spare :=
  by rw [trainTunnel_eq s]; exact ⟨rfl, rfl, rfl, rfl, rfl, rfl, rfl, rfl, rfl, rfl, rfl, rfl, rfl, rfl, rfl, rfl, rfl, rfl, rfl, rfl, rfl⟩

@[simp] theorem enterSuspend_keeps (s : State) :
    (enterSuspend s).ctx = s.ctx ∧ (enterSuspend s).sense = s.sense ∧ (enterSuspend s).usb = s.usb ∧
    (enterSuspend s).ctl = s.ctl ∧ (enterSuspend s).ev = s.ev ∧ (enterSuspend s).nvme = s.nvme ∧
    (enterSuspend s).dma = s.dma ∧ (enterSuspend s).faults = s.faults ∧ (enterSuspend s).fw = s.fw ∧
    (enterSuspend s).phy = s.phy ∧ (enterSuspend s).seq = s.seq ∧ (enterSuspend s).ctrlLen = s.ctrlLen ∧
    (enterSuspend s).usbOut = s.usbOut ∧ (enterSuspend s).usbIn = s.usbIn ∧ (enterSuspend s).now = s.now ∧
    (enterSuspend s).flashOk = s.flashOk ∧ (enterSuspend s).env = s.env ∧ (enterSuspend s).epoch = s.epoch ∧
    (enterSuspend s).free = s.free ∧
    (enterSuspend s).spare = s.spare := by
  simp [enterSuspend]

@[simp] theorem leaveOff_keeps (s : State) :
    (leaveOff s).ctx = s.ctx ∧ (leaveOff s).sense = s.sense ∧ (leaveOff s).usb = s.usb ∧ (leaveOff s).ctl = s.ctl ∧
    (leaveOff s).ev = s.ev ∧ (leaveOff s).nvme = s.nvme ∧ (leaveOff s).dma = s.dma ∧ (leaveOff s).faults = s.faults ∧
    (leaveOff s).fw = s.fw ∧ (leaveOff s).phy = s.phy ∧ (leaveOff s).seq = s.seq ∧ (leaveOff s).ctrlLen = s.ctrlLen ∧
    (leaveOff s).usbOut = s.usbOut ∧ (leaveOff s).usbIn = s.usbIn ∧ (leaveOff s).now = s.now ∧
    (leaveOff s).flashOk = s.flashOk ∧ (leaveOff s).env = s.env ∧ (leaveOff s).epoch = s.epoch ∧
    (leaveOff s).free = s.free ∧
    (leaveOff s).spare = s.spare := by
  simp [leaveOff]

@[simp] theorem phyReady_keeps (s : State) :
    (phyReady s).ctx = s.ctx ∧ (phyReady s).sense = s.sense ∧ (phyReady s).usb = s.usb ∧ (phyReady s).ctl = s.ctl ∧
    (phyReady s).ev = s.ev ∧ (phyReady s).nvme = s.nvme ∧ (phyReady s).dma = s.dma ∧ (phyReady s).faults = s.faults ∧
    (phyReady s).fw = s.fw ∧ (phyReady s).seq = s.seq ∧ (phyReady s).ctrlLen = s.ctrlLen ∧
    (phyReady s).usbOut = s.usbOut ∧ (phyReady s).usbIn = s.usbIn ∧ (phyReady s).mem = s.mem ∧
    (phyReady s).now = s.now ∧ (phyReady s).flashOk = s.flashOk ∧ (phyReady s).env = s.env ∧
    (phyReady s).epoch = s.epoch ∧ (phyReady s).free = s.free ∧
    (phyReady s).spare = s.spare := by
  simp [phyReady]

/-! ## The fields that an update changes -/

@[simp] theorem storeBytes_mem (sp : Space) (o : Nat) (b : Bytes) (s : State) :
    (storeBytes sp o b s).mem = s.mem.writeBytes sp o b := rfl
@[simp] theorem enter_link (l : LinkState) (s : State) :
    (enter l s).link = { s.link with state := l, stateEntry := s.now, timeoutCounter := 0 } := rfl
@[simp] theorem abortDma_dma (s : State) :
    (abortDma s).dma = { s.dma with busy := false, done := false, len := 0, moved := 0 } := rfl
@[simp] theorem orphanCtx_nvme (s : State) :
    (orphanCtx s).nvme = { s.nvme with slots := s.nvme.slots.map orphanSlot } := rfl
@[simp] theorem haltOut_usb (s : State) : (haltOut s).usb = { s.usb with haltOut := true, outArmed := .none } := rfl
@[simp] theorem haltOut_usbOut (s : State) : (haltOut s).usbOut = [] := rfl
@[simp] theorem haltIn_usb (s : State) : (haltIn s).usb = { s.usb with haltIn := true, inBusy := .none } := rfl
@[simp] theorem haltIn_usbIn (s : State) : (haltIn s).usbIn = [] := rfl
@[simp] theorem armOut_usb (a : OutArmed) (s : State) :
    (armOut a s).usb = { s.usb with outArmed := a, outTaken := 0 } := rfl
@[simp] theorem endIteration_seq (s : State) : (endIteration s).seq = { pos := .top, wait := none, submit := none } := rfl
@[simp] theorem handCsw_ctx (s : State) : (handCsw s).ctx = { s.ctx with state := .awaitingCsw } := rfl
@[simp] theorem handCsw_usb (s : State) :
    (handCsw s).usb = { s.usb with inBusy := .csw, outArmed := discardArm s, outTaken := 0 } := rfl
@[simp] theorem handCsw_usbIn (s : State) : (handCsw s).usbIn = s.usbIn ++ [cswBytes s.ctx] := rfl
@[simp] theorem handCsw_mem (s : State) : (handCsw s).mem = s.mem.writeBytes .cswbuf 0 (cswBytes s.ctx) := rfl
@[simp] theorem finish_ctx (st : BitVec 8) (s : State) :
    (finish st s).ctx = { s.ctx with status := st, state := .awaitingCsw } := rfl
@[simp] theorem finish_usbIn (st : BitVec 8) (s : State) :
    (finish st s).usbIn = s.usbIn ++ [cswBytes { s.ctx with status := st }] := rfl
@[simp] theorem finish_mem (st : BitVec 8) (s : State) :
    (finish st s).mem = s.mem.writeBytes .cswbuf 0 (cswBytes { s.ctx with status := st }) := rfl
@[simp] theorem appendFault_faults (c : FaultCode) (s : State) :
    (appendFault c s).faults = s.faults.append (faultRecord c s) := rfl
@[simp] theorem checkCondition_sense (x : Sense) (s : State) : (checkCondition x s).sense = x := rfl
@[simp] theorem checkCondition_ctx (x : Sense) (s : State) :
    (checkCondition x s).ctx = { s.ctx with status := 1, state := .awaitingCsw } := rfl
@[simp] theorem checkCondition_nvme (x : Sense) (s : State) :
    (checkCondition x s).nvme = { s.nvme with slots := s.nvme.slots.map orphanSlot } := rfl
@[simp] theorem vendorError_ctx (s : State) :
    (vendorError s).ctx = { s.ctx with status := 1, state := .awaitingCsw } := rfl
@[simp] theorem vendorError_nvme (s : State) :
    (vendorError s).nvme = { s.nvme with slots := s.nvme.slots.map orphanSlot } := rfl
@[simp] theorem phaseError_sense (s : State) : (phaseError s).sense = senseBadField := rfl
@[simp] theorem phaseError_ctx (s : State) :
    (phaseError s).ctx = { s.ctx with status := 2, state := .awaitingCsw, afterCsw := .haltBoth } := rfl
@[simp] theorem resetNvme_nvme (s : State) : (resetNvme s).nvme = .reset := rfl
@[simp] theorem resetNvme_mem (s : State) : (resetNvme s).mem = s.mem.clearQueues := rfl
@[simp] theorem powerOn_mem (s : State) : (powerOn s).mem = s.mem.keepFlash := rfl
@[simp] theorem powerOn_epoch (s : State) : (powerOn s).epoch = s.epoch + 1 := rfl
@[simp] theorem dmaSetup_dma (d : DmaDir) (n : Nat) (s : State) :
    (dmaSetup d n s).dma = { dir := d, len := n, ptr := 0, moved := 0, done := false, busy := true } := rfl
@[simp] theorem goto_seq (p : Pos) (s : State) : (goto p s).seq = { s.seq with pos := p } := rfl
@[simp] theorem setSlot_nvme (i : Nat) (x : Slot) (s : State) :
    (setSlot i x s).nvme = { s.nvme with slots := s.nvme.slots.set i x } := rfl
@[simp] theorem setEpBit_ev (i : Nat) (s : State) :
    (setEpBit i s).ev = { s.ev with epMask := s.ev.epMask ||| oneHot i } := rfl

end Sys2Proof.Machine
end

