-- ==== Sys2Proof/Laws/Ops.lean ====
section
/-! SUPPORT. One lemma for each shared operation that says what it can do: bytes of a space, the frame of a CDB command,
the raised fault, the submission, the fresh command id, and the cases of a step. -/

namespace Sys2Proof.Machine

/-! ## Bytes of a space -/

theorem memByte_congr {e : Nat} {m n : Memory} {sp : Space} {o : Nat} (h : m.get (key sp o) = n.get (key sp o)) :
    memByte e m sp o = memByte e n sp o := by
  unfold memByte; rw [h]

/-- A byte after a write of one byte. -/
theorem memByte_write (e : Nat) (m : Memory) (sp tp : Space) (o p : Nat) (b : Byte) :
    memByte e (m.write sp o b) tp p = if sp = tp ∧ o = p then b else memByte e m tp p := by
  unfold memByte
  rw [Memory.get_write]
  split
  · rename_i h; split at h <;> simp_all
  · rename_i h; split at h <;> simp_all

/-- A byte after a byte string was written. -/
theorem memByte_writeBytes (e : Nat) (m : Memory) (sp tp : Space) (o p : Nat) (l : Bytes) :
    memByte e (m.writeBytes sp o l) tp p =
      if sp = tp ∧ o ≤ p ∧ p < o + l.length then byteAt l (p - o) else memByte e m tp p := by
  unfold memByte
  rw [Memory.get_writeBytes]
  by_cases h : sp = tp ∧ o ≤ p ∧ p < o + l.length
  · rw [if_pos h, if_pos h]; rfl
  · rw [if_neg h, if_neg h]

/-- A byte after a range was filled. -/
theorem memByte_fill (e : Nat) (m : Memory) (sp tp : Space) (o p n : Nat) (f : Nat → Byte) :
    memByte e (m.fill sp o f n) tp p = if sp = tp ∧ o ≤ p ∧ p < o + n then f p else memByte e m tp p := by
  unfold memByte
  rw [Memory.get_fill]
  by_cases h : sp = tp ∧ o ≤ p ∧ p < o + n
  · rw [if_pos h, if_pos h]
  · rw [if_neg h, if_neg h]

/-- A byte of the machine after `storeBytes`. -/
theorem byte_storeBytes (s : State) (sp tp : Space) (o p : Nat) (l : Bytes) :
    (storeBytes sp o l s).byte tp p = if sp = tp ∧ o ≤ p ∧ p < o + l.length then byteAt l (p - o) else s.byte tp p :=
  memByte_writeBytes _ _ _ _ _ _ _

/-- A byte after a byte of the backing array was stored. -/
theorem byte_hwStore (a : BitVec 16) (v : Byte) (s : State) (sp : Space) (o : Nat) :
    (hwStore a v s).byte sp o = if Space.reg = sp ∧ a.toNat = o then v else s.byte sp o := memByte_write _ _ _ _ _ _ _

/-- A byte after a read-modify-write of a list: the bits of the mask are those of `set`, the others as they were read, whatever
the hardware did in between (rules R162, R163). -/
theorem byte_rmwOne (s : State) (t : BitVec 16 × Byte × Byte) (sp : Space) (o : Nat) :
    (rmwOne s t).byte sp o =
      if Space.reg = sp ∧ t.1.toNat = o ∧ listable t.1 = true then rmwByte (s.byte .reg o) t.2.1 t.2.2 else s.byte sp o := by
  unfold rmwOne
  by_cases hp : listable t.1 = true
  · rw [if_pos hp, byte_hwStore]
    by_cases hc : Space.reg = sp ∧ t.1.toNat = o
    · rw [if_pos hc, if_pos ⟨hc.1, hc.2, hp⟩, hc.2]
    · rw [if_neg hc, if_neg fun h => hc ⟨h.1, h.2.1⟩]
      rcases hwBetween_cases (hwStore t.1) s with h | ⟨v, h⟩
      · rw [h]; rfl
      · rw [h, byte_hwStore, if_neg hc]; rfl
  · rw [if_neg hp, if_neg fun h => hp h.2.2]

/-- A byte after a list of read-modify-writes. -/
theorem byte_rmwList (l : List (BitVec 16 × Byte × Byte)) (s : State) (sp : Space) (o : Nat) :
    (rmwList l s).byte sp o = l.foldl
      (fun b t => if Space.reg = sp ∧ t.1.toNat = o ∧ listable t.1 = true then rmwByte b t.2.1 t.2.2 else b) (s.byte sp o) := by
  unfold rmwList
  induction l generalizing s with
  | nil => rfl
  | cons t l ih =>
    rw [List.foldl_cons, List.foldl_cons, ih, byte_rmwOne]
    by_cases h : Space.reg = sp ∧ t.1.toNat = o ∧ listable t.1 = true
    · rw [if_pos h, if_pos h, h.1]
    · rw [if_neg h, if_neg h]

/-- The schedule after a list of read-modify-writes: one entry is used for each. -/
theorem rmwList_race (l : List (BitVec 16 × Byte × Byte)) (s : State) :
    (rmwList l s).race = s.race.drop (l.countP fun t => listable t.1) := by
  unfold rmwList
  induction l generalizing s with
  | nil => rfl
  | cons t l ih =>
    rw [List.foldl_cons, ih, List.countP_cons]
    unfold rmwOne
    by_cases hp : listable t.1 = true
    · rw [if_pos hp, if_pos hp, Nat.add_comm, ← List.drop_drop, List.drop_one]
      rcases hwBetween_cases (hwStore t.1) s with h | ⟨v, h⟩ <;> rw [h] <;> rfl
    · rw [if_neg hp, if_neg hp]; rfl

/-- The program step in page pieces stores the whole byte string (rule R346). -/
theorem programPages_eq (fuel : Nat) (m : Memory) (a : Nat) (data : Bytes) (h : data.length ≤ fuel) :
    programPages fuel m a data = m.writeBytes .flash a data := by
  induction fuel generalizing m a data with
  | zero =>
    obtain rfl : data = [] := List.length_eq_zero_iff.mp (by omega)
    rfl
  | succ fuel ih =>
    unfold programPages
    by_cases he : data = []
    · rw [if_pos he, he]; rfl
    · have hk : 0 < Config.flashPage - a % Config.flashPage := by
        have : a % Config.flashPage < Config.flashPage := Nat.mod_lt _ (by decide)
        omega
      have hl : 0 < data.length := List.length_pos_iff.mpr he
      rw [if_neg he]
      simp only
      rw [ih _ _ _ (by rw [List.length_drop]; omega)]
      rcases Nat.lt_or_ge data.length (Config.flashPage - a % Config.flashPage) with hs | hs
      · rw [List.drop_eq_nil_of_le (by omega), List.take_of_length_le (by omega)]
        rfl
      · conv_rhs => rw [← List.take_append_drop (Config.flashPage - a % Config.flashPage) data, Memory.writeBytes_append,
          List.length_take, Nat.min_eq_left hs]

/-- A list of read-modify-writes keeps the memory's form. -/
theorem wf_rmwList (l : List (BitVec 16 × Byte × Byte)) {s : State} (h : s.mem.wf) : (rmwList l s).mem.wf := by
  unfold rmwList
  induction l generalizing s with
  | nil => exact h
  | cons t l ih =>
    refine ih ?_
    unfold rmwOne
    split
    · refine Memory.wf_write _ _ _ ?_
      rcases hwBetween_cases (hwStore t.1) s with hb | ⟨v, hb⟩
      · rw [hb]; exact h
      · rw [hb]; exact Memory.wf_write _ _ _ h
    · exact h

theorem length_memBytes (e : Nat) (m : Memory) (sp : Space) (o n : Nat) : (memBytes e m sp o n).length = n := by
  induction n generalizing o with
  | zero => rfl
  | succ n ih => simp [memBytes, ih]

theorem byteAt_memBytes (e : Nat) (m : Memory) (sp : Space) (o n i : Nat) :
    byteAt (memBytes e m sp o n) i = if i < n then memByte e m sp (o + i) else 0 := by
  induction n generalizing o i with
  | zero => simp [memBytes, byteAt]
  | succ n ih =>
    cases i with
    | zero => simp [memBytes, byteAt]
    | succ i =>
      have := ih (o + 1) i
      simp only [byteAt] at this
      simp only [memBytes, byteAt, List.getD_cons_succ, this]
      have he : o + 1 + i = o + (i + 1) := by omega
      rw [he]
      by_cases h : i < n
      · rw [if_pos h, if_pos (by omega)]
      · rw [if_neg h, if_neg (by omega)]

@[simp] theorem length_bytes (s : State) (sp : Space) (o n : Nat) : (s.bytes sp o n).length = n := length_memBytes ..

theorem byteAt_bytes (s : State) (sp : Space) (o n i : Nat) :
    byteAt (s.bytes sp o n) i = if i < n then s.byte sp (o + i) else 0 := byteAt_memBytes ..

/-- The bytes of a space one by one. -/
theorem bytes_eq (s : State) (sp : Space) (o n : Nat) :
    s.bytes sp o n = (List.range n).map fun i => s.byte sp (o + i) := by
  have h : ∀ n o, memBytes s.epoch s.mem sp o n = (List.range n).map fun i => memByte s.epoch s.mem sp (o + i) := by
    intro n
    induction n with
    | zero => intro o; rfl
    | succ n ih =>
      intro o
      rw [memBytes, ih, List.range_succ_eq_map]
      simp [Nat.add_assoc, Nat.add_comm 1]
  exact h n o

@[simp] theorem length_cswBytes (c : Ctx) : (cswBytes c).length = 13 := by simp [cswBytes]

/-! ## The frame of a CDB command and the raised fault -/

/-- `runCdb` ends in a phase error or runs the body in `EXECUTING` (rules R276, R277). -/
theorem runCdb_cases (dir : Dir) (len : BitVec 64) (body : State → State) (s : State) :
    runCdb dir len body s = phaseError { s with ctx := { s.ctx with cmdDir := dir, cmdLen := len } } ∨
    runCdb dir len body s = body { s with ctx := { s.ctx with cmdDir := dir, cmdLen := len, state := .executing } } := by
  unfold runCdb
  simp only
  split
  · exact .inl rfl
  · exact .inr rfl

/-- `raiseFault` only records in `FAULT` and `RECOVERY`, else fails the command in flight and enters `FAULT` (rule R212). -/
theorem raiseFault_cases (c : FaultCode) (s : State) :
    ((s.link.state = .fault ∨ s.link.state = .recovery) ∧ raiseFault c s = endIteration (appendFault c s)) ∨
    ((s.link.state ≠ .fault ∧ s.link.state ≠ .recovery) ∧
      raiseFault c s = endIteration (enter .fault (failInFlight (appendFault c s)))) := by
  unfold raiseFault
  split <;> simp_all

/-- `failInFlight` changes nothing where no command is before its CSW. -/
theorem failInFlight_cases (s : State) :
    (beforeCsw s.ctx.state = false ∧ failInFlight s = s) ∨
    (beforeCsw s.ctx.state = true ∧ failInFlight s =
      { finish 1 { orphanCtx (abortDma s) with sense := senseHardware } with
        ctx := { (finish 1 { orphanCtx (abortDma s) with sense := senseHardware }).ctx with afterCsw := .nothing } }) := by
  unfold failInFlight
  split
  · rename_i h; exact .inr ⟨h, rfl⟩
  · rename_i h; exact .inl ⟨by simpa using h, rfl⟩

/-! ## Submission (rules R372, R373, R377) -/

/-- `submit` issues the entry from the free slot of lowest index, or finds none. -/
theorem submit_cases (q : QueueId) (e : Bytes) (s : State) :
    (freeSlot s = none ∧
      submit (.sqe q e) s = noSlot { s with seq := { s.seq with submit := none } } (submitOwner s)) ∨
    (∃ i, freeSlot s = some i ∧ submit (.sqe q e) s =
      issue i (setSlot i { s.nvme.slot i with inUse := true, q := q, owner := submitOwner s, retries := 0, sqe := e }
        { s with seq := { s.seq with submit := none } })) := by
  unfold submit
  cases h : freeSlot s with
  | none =>
    have h' : freeSlot { s with seq := { s.seq with submit := none } } = none := h
    exact .inl ⟨rfl, by simp only [h']⟩
  | some i =>
    have h' : freeSlot { s with seq := { s.seq with submit := none } } = some i := h
    exact .inr ⟨i, rfl, by simp only [h']⟩

theorem freeCid_run (used : List (BitVec 16)) (n : Nat) (c : BitVec 16) (h : freeCid used n c ∈ used) :
    ∀ j, j ≤ n → c + BitVec.ofNat 16 j ∈ used := by
  induction n generalizing c with
  | zero =>
    intro j hj
    obtain rfl : j = 0 := by omega
    simpa [freeCid] using h
  | succ n ih =>
    simp only [freeCid] at h
    split at h
    · rename_i hc
      intro j hj
      cases j with
      | zero => simpa using hc
      | succ j =>
        have := ih (c + 1) h j (by omega)
        have he : c + 1 + BitVec.ofNat 16 j = c + BitVec.ofNat 16 (j + 1) := by
          rw [BitVec.add_assoc]
          congr 1
          apply BitVec.eq_of_toNat_eq
          simp [Nat.add_comm]
        rwa [he] at this
    · rename_i hc
      exact absurd h (by simpa using hc)

/-- The id that `issue` takes is held by no other slot in use: more ids are tried than slots exist (rule R377). -/
theorem freeCid_not_mem (used : List (BitVec 16)) (n : Nat) (c : BitVec 16) (hn : used.length ≤ n) (h16 : n < 65536) :
    freeCid used n c ∉ used := by
  intro h
  have hrun := freeCid_run used n c h
  let l := (List.range (n + 1)).map fun j => c + BitVec.ofNat 16 j
  have hnd : l.Nodup := by
    apply List.Nodup.map_on _ List.nodup_range
    intro a ha b hb hab
    rw [List.mem_range] at ha hb
    have hab' := congrArg (fun x => (x - c).toNat) hab
    simp only [BitVec.add_comm c, BitVec.add_sub_cancel, BitVec.toNat_ofNat] at hab'
    rw [Nat.mod_eq_of_lt (by omega), Nat.mod_eq_of_lt (by omega)] at hab'
    exact hab'
  have hsub : l ⊆ used := by
    intro x hx
    obtain ⟨j, hj, rfl⟩ := List.mem_map.1 hx
    exact hrun j (by have := List.mem_range.1 hj; omega)
  have hle := (hnd.subperm hsub).length_le
  simp [l] at hle
  omega

/-! ## The cases of a step -/

/-- Every instruction's meaning answers a next state. -/
theorem exec_next (i : Instr) (s : State) : ∃ t, exec i s = .next t := by
  cases i <;> exact ⟨_, rfl⟩

/-- What `step` does: a step of the sequencer, an agent's step, or the DMA engine's while the sequencer is blocked. -/
theorem step_cases {s t : State} (h : step s = .next t) :
    (∃ u, (u = s ∨ ∃ r, s.env = .seq :: r ∧ u = { s with env := r }) ∧ seqStep u = .next t) ∨
    (∃ i r, s.env = i :: r ∧ t = agentStep i { s with env := r }) ∨
    (s.env = [] ∧ t = dmaStep Config.stagingSize s) := by
  unfold step machineStep at h
  split at h
  · exact .inl ⟨s, .inl rfl, h⟩
  · split at h
    · split at h
      · exact .inr (.inr ⟨by assumption, by simpa using h.symm⟩)
      · exact .inl ⟨s, .inl rfl, h⟩
    · rename_i r hr
      exact .inl ⟨_, .inr ⟨r, hr, rfl⟩, h⟩
    · rename_i i r _ hr
      exact .inr (.inl ⟨i, r, hr, by simpa using h.symm⟩)

/-- What a step of the sequencer does: it goes on with a wait, issues a submission, or runs its place in the iteration. -/
theorem seqStep_cases {s t : State} (h : seqStep s = .next t) :
    (∃ w, s.seq.wait = some w ∧ waitStep w s = .next t) ∨
    (s.seq.wait = none ∧ ∃ r i, s.seq.submit = some r ∧ decode (.sqe r.q r.entry) = .ok i ∧ exec i s = .next t) ∨
    (s.seq.wait = none ∧ s.seq.submit = none ∧ posStep s = .next t) := by
  unfold seqStep at h
  split at h
  · rename_i w hw; exact .inl ⟨w, hw, h⟩
  · rename_i hw
    split at h
    · rename_i r hr
      unfold runPacket at h
      split at h
      · rename_i i hi; exact .inr (.inl ⟨hw, r, i, hr, hi, h⟩)
      · cases h
    · rename_i hr; exact .inr (.inr ⟨hw, hr, h⟩)

end Sys2Proof.Machine
end

