-- ==== Sys2Proof/Laws/Ends.lean ====
section
/-! SUPPORT. What the shared ends of a command and the shared starts of a data phase do, in the terms of Safety: each lemma
says once everything its operation does, and the per-instruction proofs cite it. -/

namespace Sys2Proof.Machine

/-! ## The CSW and the two failures -/

theorem discardArm_eq (s : State) : discardArm s = armedAfter s.ctx s.usb := by
  unfold discardArm dataArm armedAfter residue
  have : (0 < (s.ctx.expectedLen - s.ctx.actual).toNat) ↔ s.ctx.expectedLen ≠ s.ctx.actual := by
    rw [Nat.pos_iff_ne_zero, ne_eq, ne_eq, not_iff_not]
    constructor
    · intro h; bv_omega
    · intro h; rw [h]; simp
  simp only [this]
  by_cases h : s.usb.config = 0#8 <;> simp [h]

theorem byte_handCsw (s : State) (sp : Space) (o : Nat) :
    (handCsw s).byte sp o = if sp = .cswbuf ∧ o < 13 then byteAt (cswBytes s.ctx) o else s.byte sp o := by
  have h := byte_storeBytes s .cswbuf sp 0 o (cswBytes s.ctx)
  simp only [length_cswBytes, Nat.zero_add, Nat.zero_le, true_and, Nat.sub_zero, eq_comm (a := Space.cswbuf)] at h
  rw [← h]
  rfl

/-- `Finish(st)` (rules R276, R284). -/
theorem finish_ended (st : BitVec 8) (s : State) : Ended s (finish st s) s.ctx s.sense s.nvme st := by
  refine ⟨?_, fun i hi => ?_⟩
  · have h := discardArm_eq { s with ctx := { s.ctx with status := st } }
    unfold finish handCsw
    simp only [h]
    rfl
  · unfold finish
    rw [byte_handCsw, if_pos ⟨rfl, hi⟩]
    rfl

theorem finish_changes (st : BitVec 8) (s : State) : Changes s (finish st s) inCsw := by
  intro sp o h
  unfold finish
  rw [byte_handCsw]
  have h' : ¬ (sp = .cswbuf ∧ o < 13) := h
  rw [if_neg h']
  rfl

/-- `raise CheckCondition` (rule R285). -/
theorem checkCondition_failed (x : Sense) (s : State) : Failed s (checkCondition x s) x :=
  ⟨finish_ended 1 (armOut .none (orphanCtx { s with sense := x })),
   finish_changes 1 (armOut .none (orphanCtx { s with sense := x }))⟩

/-- `raise VendorError` (rule R342). -/
theorem vendorError_failed (s : State) : Failed s (vendorError s) s.sense :=
  ⟨finish_ended 1 (armOut .none (orphanCtx s)), finish_changes 1 (armOut .none (orphanCtx s))⟩

/-- `raise PhaseError` (rule R286). -/
theorem phaseError_ended (s : State) :
    Ended s (phaseError s) { s.ctx with afterCsw := .haltBoth } senseBadField s.nvme 2 ∧
      Changes s (phaseError s) inCsw :=
  ⟨finish_ended 2 { s with sense := senseBadField, ctx := { s.ctx with afterCsw := .haltBoth } },
   finish_changes 2 { s with sense := senseBadField, ctx := { s.ctx with afterCsw := .haltBoth } }⟩

/-! ## The frame -/

/-- With no phase error the body runs in `EXECUTING` (rule R276). -/
theorem runCdb_ok {s : State} {dir : Dir} {len : BitVec 64} (h : phaseOk s dir len.toNat) (body : State → State) :
    runCdb dir len body s = body { s with ctx := { s.ctx with cmdDir := dir, cmdLen := len, state := .executing } } := by
  unfold runCdb phaseErr
  simp only
  rw [if_neg]
  rintro hp
  obtain ⟨h1, h2⟩ := h
  simp only [Bool.or_eq_true, Bool.and_eq_true, decide_eq_true_eq, bne_iff_ne] at hp
  rcases hp with ⟨h3, h4⟩ | h3
  · rcases h1 with h1 | h1
    · omega
    · exact h4 h1
  · omega

/-- With a phase error nothing else happens (rules R277, R286). -/
theorem runCdb_phase {s : State} {dir : Dir} {len : BitVec 64} (h : ¬ phaseOk s dir len.toNat) (body : State → State) :
    runCdb dir len body s = phaseError { s with ctx := { s.ctx with cmdDir := dir, cmdLen := len } } := by
  unfold runCdb phaseErr
  simp only
  rw [if_pos]
  simp only [Bool.or_eq_true, Bool.and_eq_true, decide_eq_true_eq, bne_iff_ne]
  by_contra hp
  apply h
  rw [not_or] at hp
  refine ⟨?_, by omega⟩
  by_cases hl : len.toNat = 0
  · exact .inl hl
  · right
    by_contra hd
    exact hp.1 ⟨by omega, hd⟩

/-! ## Data phases -/

/-- A response in `STAGING` is sent, or the command ends where nothing is to be sent (rule R281). -/
theorem sendBuf_answered (s : State) (c : Ctx) (resp : Bytes) :
    Answered s (sendBuf (storeBytes .staging 0 resp { s with ctx := { c with state := .executing } })) c c.cmdLen.toNat resp ∧
    Changes s (sendBuf (storeBytes .staging 0 resp { s with ctx := { c with state := .executing } }))
      (answerBytes c.cmdLen.toNat resp.length) := by
  have hb : ∀ sp o, (storeBytes .staging 0 resp { s with ctx := { c with state := .executing } }).byte sp o =
      if sp = .staging ∧ o < resp.length then byteAt resp o else s.byte sp o := by
    intro sp o
    rw [byte_storeBytes]
    simp only [Nat.zero_add, Nat.zero_le, true_and, Nat.sub_zero, eq_comm (a := Space.staging)]
    rfl
  have hc : (storeBytes .staging 0 resp { s with ctx := { c with state := .executing } }).ctx.cmdLen = c.cmdLen := rfl
  by_cases h0 : c.cmdLen = 0
  · have hn : c.cmdLen.toNat = 0 := by rw [h0]; rfl
    unfold sendBuf
    rw [if_pos (by rw [hc]; exact h0)]
    have he := finish_ended 0 (storeBytes .staging 0 resp { s with ctx := { c with state := .executing } })
    have hch := finish_changes 0 (storeBytes .staging 0 resp { s with ctx := { c with state := .executing } })
    refine ⟨⟨fun h => absurd h (by omega), fun _ => ⟨?_, he.2⟩, fun i hi => ?_⟩, fun sp o h => ?_⟩
    · exact he.1
    · rw [hch _ _ (by rintro ⟨h, _⟩; cases h), hb, if_pos ⟨rfl, hi⟩]
    · unfold answerBytes at h
      rw [not_or] at h
      rw [hch _ _ (fun hc => h.2 ⟨hn, hc⟩), hb, if_neg h.1]
  · have hn : c.cmdLen.toNat ≠ 0 := by
      intro h; apply h0; exact BitVec.eq_of_toNat_eq (by simpa using h)
    unfold sendBuf
    rw [if_neg (by rw [hc]; exact h0)]
    refine ⟨⟨fun _ => rfl, fun h => absurd h hn, fun i hi => ?_⟩, fun sp o h => ?_⟩
    · exact (hb .staging i).trans (if_pos ⟨rfl, hi⟩)
    · unfold answerBytes at h
      rw [not_or] at h
      exact (hb sp o).trans (if_neg h.1)

/-- Flash bytes are read and sent, or the read fails (rules R343, R344, R347). -/
theorem sendFlash_cases (a n : Nat) (s : State) :
    ((n = 0 ∨ s.flashOk = true) ∧ sendFlash a n s = sendBuf (storeBytes .staging 0 (s.bytes .flash a n) s)) ∨
    (¬ (n = 0 ∨ s.flashOk = true) ∧ sendFlash a n s = vendorError s) := by
  unfold sendFlash
  by_cases h : n = 0 ∨ s.flashOk = true
  · exact .inl ⟨h, if_pos h⟩
  · exact .inr ⟨h, if_neg h⟩

/-! ## A received CBW -/

/-- The checks of rule R271, byte by byte. -/
theorem validCbw_iff (s : State) : validCbw (s.bytes .ctrlbuf 0 31) s.ctrlLen = true ↔ CbwValid s := by
  have hb : ∀ i, i < 31 → byteAt (s.bytes .ctrlbuf 0 31) i = s.byte .ctrlbuf i := by
    intro i hi
    rw [byteAt_bytes, if_pos hi, Nat.zero_add]
  have hs : (0x43425355 : BitVec 32) = ((0x43#8 ++ 0x42#8) ++ (0x53#8 ++ 0x55#8) : BitVec 32) := by decide
  unfold validCbw CbwValid getLE32 getLE16
  rw [hb (0 + 2 + 1) (by omega), hb (0 + 2) (by omega), hb (0 + 1) (by omega), hb 0 (by omega), hb 14 (by omega), hs]
  simp only [Bool.and_eq_true, beq_iff_eq, decide_eq_true_eq]
  rw [append_inj, append_inj, append_inj]
  exact ⟨fun ⟨⟨⟨h1, ⟨h2, h3⟩, h4, h5⟩, h6⟩, h7⟩ => ⟨h1, h5, h4, h3, h2, h6, h7⟩,
    fun ⟨h1, h5, h4, h3, h2, h6, h7⟩ => ⟨⟨⟨h1, ⟨h2, h3⟩, h4, h5⟩, h6⟩, h7⟩⟩

/-- The fields of rule R275, byte by byte. -/
theorem latchCbw_eq (s : State) : latchCbw (s.bytes .ctrlbuf 0 31) s =
    { s with ctx := cbwContext s, usb := { s.usb with outArmed := .none, outTaken := 0 } } := by
  have hb : ∀ i, i < 31 → byteAt (s.bytes .ctrlbuf 0 31) i = s.byte .ctrlbuf i := by
    intro i hi
    rw [byteAt_bytes, if_pos hi, Nat.zero_add]
  have hc : padTo 16 (((s.bytes .ctrlbuf 0 31).drop 15).take (s.byte .ctrlbuf 14).toNat) =
      (List.range 16).map fun i => if i < (s.byte .ctrlbuf 14).toNat then s.byte .ctrlbuf (15 + i) else 0 := by
    apply List.ext_getElem (by simp)
    intro i h1 h2
    have hi : i < 16 := by simpa using h1
    have hp : ∀ (l : Bytes) (h : i < l.length), l[i] = byteAt l i := fun l h => by simp [byteAt, h]
    rw [hp, byteAt_padTo, if_pos hi, List.getElem_map, List.getElem_range]
    simp only [byteAt, List.getD_eq_getElem?_getD, List.getElem?_take, List.getElem?_drop]
    split
    · have := hb (15 + i) (by omega)
      simpa only [byteAt, List.getD_eq_getElem?_getD] using this
    · rfl
  unfold latchCbw cbwContext getLE32 getLE16
  simp only [hb (4 + 2 + 1) (by omega), hb (4 + 2) (by omega), hb (4 + 1) (by omega), hb 4 (by omega),
    hb (8 + 2 + 1) (by omega), hb (8 + 2) (by omega), hb (8 + 1) (by omega), hb 8 (by omega), hb 12 (by omega),
    hb 13 (by omega), hb 14 (by omega), hc]
  have hl : (s.byte .ctrlbuf 13).extractLsb' 0 4 = (s.byte .ctrlbuf 13).setWidth 4 := by ext i; simp
  rw [hl]

/-- The first chunk of a data-OUT phase (rule R283). -/
theorem writeNextChunk_asked (s : State) (c : Ctx) (h : c.actual = 0) :
    Asked s (writeNextChunk { s with ctx := { c with state := .executing } }) c c.cmdLen.toNat := by
  have hr : c.cmdLen - c.actual.setWidth 64 = c.cmdLen := by rw [h]; simp
  unfold writeNextChunk
  simp only [hr]
  by_cases h0 : c.cmdLen = 0
  · have hn : c.cmdLen.toNat = 0 := by rw [h0]; rfl
    rw [if_pos h0]
    refine ⟨fun hp => absurd hp (by omega), fun _ => ⟨?_, ?_⟩⟩
    · exact finish_ended 0 { s with ctx := { c with state := .executing } }
    · exact finish_changes 0 { s with ctx := { c with state := .executing } }
  · have hn : c.cmdLen.toNat ≠ 0 := by
      intro h; apply h0; exact BitVec.eq_of_toNat_eq (by simpa using h)
    rw [if_neg h0]
    exact ⟨fun _ => rfl, fun h => absurd h hn⟩

end Sys2Proof.Machine
end

