-- ==== Sys2Proof/Laws/PerInstr.lean ====
section
/-! SUPPORT. The family `Encoding`, a statement about an instruction as syntax with one lemma per constructor: the carrier
the encoder gives it has the length of its format (rules R110, R131, R139). -/

namespace Sys2Proof.Laws.Encoding

/-- A carrier has the length of its format: 16 CDB bytes, 8 setup bytes, 64 entry bytes (rules R110, R131, R139). -/
def wellSized : Packet → Prop
  | .cdb b => b.length = 16
  | .setup b => b.length = 8
  | .sqe _ b => b.length = 64

/-- The encoding of an instruction has the length of its format. -/
def Statement (i : Instr) : Prop := wellSized (encode i)

theorem testUnitReady : Statement .testUnitReady := rfl
theorem requestSense : ∀ alloc, Statement (.requestSense alloc) := by intros; rfl
theorem inquiry : ∀ evpd page alloc, Statement (.inquiry evpd page alloc) := by intros; rfl
theorem modeSense6 : ∀ pc page alloc, Statement (.modeSense6 pc page alloc) := by intros; rfl
theorem readCapacity10 : Statement .readCapacity10 := rfl
theorem read10 : ∀ lba blocks, Statement (.read10 lba blocks) := by intros; rfl
theorem write10 : ∀ lba blocks, Statement (.write10 lba blocks) := by intros; rfl
theorem synchronizeCache : Statement .synchronizeCache := rfl
theorem reportLuns : ∀ alloc, Statement (.reportLuns alloc) := by intros; rfl
theorem vendorE0_50 : ∀ blockno, Statement (.vendorE0_50 blockno) := by intros; rfl
theorem vendorE1_50 : ∀ blockno, Statement (.vendorE1_50 blockno) := by intros; rfl
theorem vendorE2 : ∀ length, Statement (.vendorE2 length) := by intros; rfl
theorem vendorE3_50 : ∀ length, Statement (.vendorE3_50 length) := by intros; rfl
theorem vendorE3_D0 : ∀ length, Statement (.vendorE3_D0 length) := by intros; rfl
theorem vendorE4 : ∀ size addr, Statement (.vendorE4 size addr) := by intros; rfl
theorem vendorE5 : ∀ value addr, Statement (.vendorE5 value addr) := by intros; rfl
theorem vendorE6_02 : ∀ rest, Statement (.vendorE6_02 rest) := by intros; rfl
theorem vendorE6_06 : ∀ rest, Statement (.vendorE6_06 rest) := by intros; rfl
theorem vendorE8_00 : Statement .vendorE8_00 := rfl
theorem vendorE8_01 : Statement .vendorE8_01 := rfl
theorem vendorE8_51 : Statement .vendorE8_51 := rfl
theorem vendorE0BadSub : ∀ sub, Statement (.vendorE0BadSub sub) := by intros; rfl
theorem vendorE1BadSub : ∀ sub, Statement (.vendorE1BadSub sub) := by intros; rfl
theorem vendorE3BadSub : ∀ sub, Statement (.vendorE3BadSub sub) := by intros; rfl
theorem vendorE6BadSub : ∀ sub, Statement (.vendorE6BadSub sub) := by intros; rfl
theorem vendorE8BadSub : ∀ sub, Statement (.vendorE8BadSub sub) := by intros; rfl
theorem illegalOpcode : ∀ op, Statement (.illegalOpcode op) := by intros; rfl
theorem getStatusDevice : ∀ wValue wIndex wLength, Statement (.getStatusDevice wValue wIndex wLength) := by intros; rfl
theorem getStatusInterface : ∀ wValue wIndex wLength, Statement (.getStatusInterface wValue wIndex wLength) := by intros; rfl
theorem getStatusEndpoint : ∀ wValue wIndex wLength, Statement (.getStatusEndpoint wValue wIndex wLength) := by intros; rfl
theorem clearFeature : ∀ wValue wIndex wLength, Statement (.clearFeature wValue wIndex wLength) := by intros; rfl
theorem setAddress : ∀ wValue wIndex wLength, Statement (.setAddress wValue wIndex wLength) := by intros; rfl
theorem getDescriptor : ∀ type index wIndex wLength, Statement (.getDescriptor type index wIndex wLength) := by intros; rfl
theorem setConfiguration : ∀ wValue wIndex wLength, Statement (.setConfiguration wValue wIndex wLength) := by intros; rfl
theorem bulkOnlyReset : ∀ wValue wIndex wLength, Statement (.bulkOnlyReset wValue wIndex wLength) := by intros; rfl
theorem unhandledRequest : ∀ bmRequestType bRequest wValue wIndex wLength, Statement (.unhandledRequest bmRequestType bRequest wValue wIndex wLength) := by intros; rfl
theorem identify : ∀ cid nsid prp1 cdw10 cdw11, Statement (.identify cid nsid prp1 cdw10 cdw11) := by intros; rfl
theorem createIoCq : ∀ cid prp1 cdw10 cdw11, Statement (.createIoCq cid prp1 cdw10 cdw11) := by intros; rfl
theorem createIoSq : ∀ cid prp1 cdw10 cdw11, Statement (.createIoSq cid prp1 cdw10 cdw11) := by intros; rfl
theorem getLogPage : ∀ cid nsid prp1 cdw10 cdw11, Statement (.getLogPage cid nsid prp1 cdw10 cdw11) := by intros; rfl
theorem nvmeFlush : ∀ cid nsid, Statement (.nvmeFlush cid nsid) := by intros; rfl
theorem nvmeWrite : ∀ cid nsid prp1 slba nlb, Statement (.nvmeWrite cid nsid prp1 slba nlb) := by intros; rfl
theorem nvmeRead : ∀ cid nsid prp1 slba nlb, Statement (.nvmeRead cid nsid prp1 slba nlb) := by intros; rfl

end Sys2Proof.Laws.Encoding
end

