-- ==== Sys2Proof/Laws/RegMap.lean ====
section
/-! SUPPORT. The map of the register space keeps what the spec requires of it (decision D1, rules R143, R165, R423, R452): the role
addresses are distinct and at their places, a role's address selects that role, and no two PCIe windows overlap. -/

namespace Sys2Proof.Machine

/-! ## Role addresses -/

theorem mem_all (r : Role) : r ∈ Role.all := by
  rcases r with _ | _ | _ | _ | _ | _ | _ | _ | _ | _ | _ | _ | _ | _ | q | q | _ | _ | _ | _ | _ <;> (try cases q) <;> decide

theorem layout_ok : layoutOk Role.addr faultRingBase = true := by
  cases h : layoutGiven
  · have h1 : Role.addr = Role.defaultAddr := by funext r; simp [Role.addr, h]
    have h2 : faultRingBase = defaultRingBase := by simp [faultRingBase, h]
    rw [h1, h2]
    decide
  · have h1 : Role.addr = Config.roleAddr := by funext r; simp [Role.addr, h]
    have h2 : faultRingBase = Config.faultRingAt := by simp [faultRingBase, h]
    rw [h1, h2]
    exact h

/-- The role addresses are pairwise distinct (decision D1). -/
theorem addr_inj {r r' : Role} (h : Role.addr r = Role.addr r') : r = r' := by
  have hn : (Role.all.map Role.addr).Nodup := by
    have := layout_ok
    simp only [layoutOk, Bool.and_eq_true, decide_eq_true_eq] at this
    exact this.1.1
  exact List.inj_on_of_nodup_map hn (mem_all r) (mem_all r') h

/-- Every role lies at its place (rules R23, R25, R26, R452, conflict C24) and outside the fault-ring window. -/
theorem addr_placed (r : Role) : (Role.place r).admits (Role.addr r) = true ∧ inRing faultRingBase (Role.addr r) = false := by
  have := layout_ok
  simp only [layoutOk, Bool.and_eq_true, List.all_eq_true] at this
  simpa using this.1.2 r (mem_all r)

/-- The ring window lies inside the register space and outside the UART region (rules R21, R143). -/
theorem ring_placed : ringPlaced faultRingBase = true := by
  have := layout_ok
  simp only [layoutOk, Bool.and_eq_true] at this
  exact this.2

theorem ring_fits : faultRingBase + faultRingSize ≤ 65536 := by
  have := ring_placed
  simp only [ringPlaced, Bool.and_eq_true, decide_eq_true_eq] at this
  exact this.1

/-- A role's address selects that role (rule R29). -/
theorem target_addr (r : Role) : target (Role.addr r) = .role r := by
  have h : roleAt (Role.addr r) = some r := by
    unfold roleAt
    cases hf : Role.all.find? fun x => Role.addr x == Role.addr r with
    | none => exact absurd (List.find?_eq_none.mp hf r (mem_all r)) (by simp)
    | some x =>
      have := List.find?_some hf
      have he : x = r := addr_inj (by simpa using this)
      rw [he]
  simp [target, h]

/-- `Policy` at a role's address is the role's class (rule R165). -/
theorem policyOf_addr (r : Role) : policyOf (Role.addr r) = Role.cls r := by simp [policyOf, target_addr]

/-- The seven regions are pairwise disjoint (rule R21). -/
theorem regions_disjoint (g g' : Region) (a : BitVec 16) (h : g.contains a = true) (h' : g'.contains a = true) : g = g' := by
  simp only [Region.contains, Bool.and_eq_true, decide_eq_true_eq] at h h'
  cases g <;> cases g' <;> first | rfl | (simp only [Region.base, Region.size] at h h'; omega)

/-- No role and no byte of the ring window lies in the UART region (rule R21). -/
theorem target_uart (a : BitVec 16) (h : Region.uart.contains a = true) : target a = .plain := by
  have hr : roleAt a = none := by
    unfold roleAt
    refine List.find?_eq_none.mpr fun r _ he => ?_
    have hp := (addr_placed r).1
    rw [show Role.addr r = a by simpa using he] at hp
    cases hl : Role.place r with
    | inside g =>
      rw [hl] at hp
      rw [regions_disjoint g .uart a hp h] at hl
      cases r <;> cases hl
    | outside => rw [hl] at hp; simp [Place.admits, Region.all, h] at hp
    | notUart => rw [hl] at hp; simp [Place.admits, h] at hp
  have hg : inRing faultRingBase a = false := by
    have hp := ring_placed
    rw [← Bool.not_eq_true]
    intro hi
    simp only [ringPlaced, inRing, Region.contains, Bool.and_eq_true, Bool.or_eq_true, decide_eq_true_eq] at hp hi h
    omega
  simp [target, hr, hg]

/-! ## Bits and acks -/

/-- The named bits of one register have different places. -/
theorem bits_ok : Config.bitsOk Config.bitPos = true := by
  unfold Config.bitPos
  split
  · assumption
  · decide

/-- The three ack bytes are different. -/
theorem acks_ok : Config.acksOk Config.ackByte = true := by
  unfold Config.ackByte
  split
  · assumption
  · decide

/-! ## PCIe windows (rule R423) -/

theorem queueDepth_le : Config.queueDepth ≤ 65536 := by
  unfold Config.queueDepth Config.kMax
  have := Config.queueDepthExtra.isLt
  omega

/-- The five windows do not overlap. -/
theorem windows_disjoint :
    Config.disjoint (Config.pcieWindows Config.stagingPcieAddr Config.sqPcieAddr Config.cqPcieAddr) = true := by
  cases h : Config.pcieOk
  · have h1 : Config.stagingPcieAddr = 0 := by simp [Config.stagingPcieAddr, h]
    have h2 : ∀ q, Config.sqPcieAddr q = match q with | .admin => 0x01000000 | .io => 0x02000000 := by
      intro q; cases q <;> simp [Config.sqPcieAddr, h]
    have h3 : ∀ q, Config.cqPcieAddr q = match q with | .admin => 0x03000000 | .io => 0x04000000 := by
      intro q; cases q <;> simp [Config.cqPcieAddr, h]
    have hq := queueDepth_le
    simp [Config.disjoint, Config.pcieWindows, h1, h2, h3, Config.apart, Config.stagingSize, Config.sqeLen, Config.cqeLen]
    omega
  · have h1 : Config.stagingPcieAddr = Config.stagingPage ++ (0#12) := by simp [Config.stagingPcieAddr, h]
    have h2 : Config.sqPcieAddr = Config.sqPcieAt := by funext q; simp [Config.sqPcieAddr, h]
    have h3 : Config.cqPcieAddr = Config.cqPcieAt := by funext q; simp [Config.cqPcieAddr, h]
    rw [h1, h2, h3]
    exact h

theorem windowOff_self (a : BitVec 64) (o n : Nat) (h : o < n) (hn : n ≤ 2 ^ 64) :
    windowOff a (a + BitVec.ofNat 64 o) n = some o := by
  have he : (a + BitVec.ofNat 64 o - a).toNat = o := by
    rw [BitVec.add_comm, BitVec.add_sub_cancel, BitVec.toNat_ofNat]
    exact Nat.mod_eq_of_lt (by omega)
  unfold windowOff
  rw [he, if_pos h]

/-- An address of one window is in no window apart from it. -/
theorem windowOff_apart {a b : BitVec 64} {n m : Nat} (h : Config.apart a n b m = true) (o : Nat) (ho : o < m) :
    windowOff a (b + BitVec.ofNat 64 o) n = none := by
  simp only [Config.apart, Bool.and_eq_true, decide_eq_true_eq] at h
  have he : n ≤ (b + BitVec.ofNat 64 o - a).toNat := by
    rw [BitVec.toNat_sub, BitVec.toNat_sub] at h
    rw [BitVec.toNat_sub, BitVec.toNat_add, BitVec.toNat_ofNat]
    have := a.isLt
    have := b.isLt
    omega
  unfold windowOff
  rw [if_neg (by omega)]

/-- Every byte of a queue or of the staging buffer is behind its PCIe address (rule R423). -/
theorem translate_window (o : Nat) :
    (o < 4096 → translate (Config.stagingPcieAddr + BitVec.ofNat 64 o) = some (.staging, o)) ∧
    (∀ q, o < 64 * Config.queueDepth → translate (Config.sqPcieAddr q + BitVec.ofNat 64 o) = some (.sq q, o)) ∧
    (∀ q, o < 16 * Config.queueDepth → translate (Config.cqPcieAddr q + BitVec.ofNat 64 o) = some (.cq q, o)) := by
  have hd := windows_disjoint
  have hq := queueDepth_le
  simp only [Config.disjoint, Config.pcieWindows, decide_eq_true_eq, List.pairwise_cons, List.mem_cons, List.not_mem_nil,
    or_false, forall_eq_or_imp, forall_eq, List.Pairwise.nil, Config.sqeLen, Config.cqeLen, IsEmpty.forall_iff,
    implies_true, and_true] at hd
  obtain ⟨⟨h1, h2, h3, h4⟩, ⟨h5, h6, h7⟩, ⟨h8, h9⟩, h10⟩ := hd
  refine ⟨fun h => ?_, fun q h => ?_, fun q h => ?_⟩
  · simp [translate, windowOff_self _ o Config.stagingSize h (by decide)]
  · cases q
    · simp [translate, windowOff_apart h1 o h, windowOff_self _ o _ h (by omega)]
    · simp [translate, windowOff_apart h2 o h, windowOff_apart h5 o h, windowOff_self _ o _ h (by omega)]
  · cases q
    · simp [translate, windowOff_apart h3 o h, windowOff_apart h6 o h, windowOff_apart h8 o h, windowOff_self _ o _ h (by omega)]
    · simp [translate, windowOff_apart h4 o h, windowOff_apart h7 o h, windowOff_apart h9 o h, windowOff_apart h10 o h,
        windowOff_self _ o _ h (by omega)]

/-- The staging window is aligned to 4096 bytes (rule R424). -/
theorem staging_aligned : Config.stagingPcieAddr.toNat % 4096 = 0 := by
  unfold Config.stagingPcieAddr
  split
  · rw [BitVec.toNat_append]
    simp only [BitVec.toNat_ofNat, Nat.zero_mod, Nat.or_zero, Nat.shiftLeft_eq]
    generalize Config.stagingPage.toNat = x
    norm_num
  · rfl

end Sys2Proof.Machine
end

