-- ==== Sys2Proof/Tests/Slice0.lean ====
section
/-! SUPPORT. Tests on fixed values, with the rule or the vector of 95_test_vectors.md each expected value is taken from, and
a concrete state and operands that meet the hypotheses of each statement that has some. -/

namespace Sys2Proof.Tests

open Sys2Proof.Machine

/-! ## Well-formedness: one ill-formed term for each check (rules R132, R144) -/

theorem test_wf_refuses_e0_50 : (Instr.vendorE0BadSub 0x50).wf = false := by decide
theorem test_wf_refuses_e1_50 : (Instr.vendorE1BadSub 0x50).wf = false := by decide
theorem test_wf_refuses_e3_50 : (Instr.vendorE3BadSub 0x50).wf = false := by decide
theorem test_wf_refuses_e3_d0 : (Instr.vendorE3BadSub 0xD0).wf = false := by decide
theorem test_wf_refuses_e6_02 : (Instr.vendorE6BadSub 0x02).wf = false := by decide
theorem test_wf_refuses_e6_06 : (Instr.vendorE6BadSub 0x06).wf = false := by decide
theorem test_wf_refuses_e8_00 : (Instr.vendorE8BadSub 0x00).wf = false := by decide
theorem test_wf_refuses_e8_01 : (Instr.vendorE8BadSub 0x01).wf = false := by decide
theorem test_wf_refuses_e8_51 : (Instr.vendorE8BadSub 0x51).wf = false := by decide
theorem test_wf_refuses_listed_opcode : (Instr.illegalOpcode 0xE2).wf = false := by decide
theorem test_wf_refuses_listed_request : (Instr.unhandledRequest 0x21 0xFF 0 0 0).wf = false := by decide

/-! ## Decoding: a word of every instruction, written out from its encoding rule -/

/-- The instruction of a carrier, if it holds one. -/
def read (p : Packet) : Option Instr := (decode p).toOption

/-- R116. -/
theorem test_decode_test_unit_ready : read (.cdb [0, 0, 0, 0, 0, 0]) = some .testUnitReady := by decide
/-- R117. -/
theorem test_decode_request_sense : read (.cdb [0x03, 0, 0, 0, 0x12, 0]) = some (.requestSense 18) := by decide
/-- Vector S1; R118. -/
theorem test_decode_inquiry : read (.cdb [0x12, 0x01, 0x80, 0x01, 0x24, 0]) = some (.inquiry true 0x80 0x124) := by decide
/-- R119: page code in bits 5 to 0 of byte 2. -/
theorem test_decode_mode_sense : read (.cdb [0x1A, 0, 0x88, 0, 0xC0, 0]) = some (.modeSense6 2 8 0xC0) := by decide
theorem test_decode_read_capacity : read (.cdb [0x25, 0, 0, 0, 0, 0, 0, 0, 0, 0]) = some .readCapacity10 := by decide
/-- Program P3. -/
theorem test_decode_read10 :
    read (.cdb [0x28, 0, 0x12, 0x34, 0x56, 0x78, 0, 0x9A, 0xBC, 0]) = some (.read10 0x12345678 0x9ABC) := by decide
/-- Vector 2.6-n: the FUA bit is ignored. -/
theorem test_decode_write10 : read (.cdb [0x2A, 0x08, 0, 0, 0, 0x10, 0, 0, 1, 0]) = some (.write10 16 1) := by decide
theorem test_decode_sync_cache : read (.cdb [0x35, 0, 0, 0, 0, 0, 0, 0, 0, 0]) = some .synchronizeCache := by decide
/-- Vector 2.6-p. -/
theorem test_decode_report_luns :
    read (.cdb [0xA0, 0, 0, 0, 0, 0, 1, 2, 3, 4, 0, 0]) = some (.reportLuns 0x01020304) := by decide
/-- Vectors 2.7-b and 2.7-c. -/
theorem test_decode_e0 :
    read (.cdb [0xE0, 0x50, 0x02]) = some (.vendorE0_50 2) ∧ read (.cdb [0xE0, 0x51, 0]) = some (.vendorE0BadSub 0x51) := by
  decide
theorem test_decode_e1 :
    read (.cdb [0xE1, 0x50, 0x01]) = some (.vendorE1_50 1) ∧ read (.cdb [0xE1, 0x00]) = some (.vendorE1BadSub 0) := by decide
/-- Vector 2.7-f. -/
theorem test_decode_e2 : read (.cdb [0xE2, 0, 0, 0x10, 0x01]) = some (.vendorE2 0x1001) := by decide
/-- Vectors 2.7-g, 2.7-g2 and 2.7-g3. -/
theorem test_decode_e3 :
    read (.cdb [0xE3, 0xD0, 0, 0, 1, 0]) = some (.vendorE3_D0 0x100) ∧
    read (.cdb [0xE3, 0x50, 0, 1, 0, 0]) = some (.vendorE3_50 0x10000) ∧
    read (.cdb [0xE3, 0x60, 0, 0, 1, 0]) = some (.vendorE3BadSub 0x60) := by decide
/-- Scenario S4; vector 2.7-l. -/
theorem test_decode_e4 : read (.cdb [0xE4, 0x40, 0x00, 0xFF, 0xC0]) = some (.vendorE4 0x40 0x00FFC0) := by decide
/-- Program P2. -/
theorem test_decode_e5 : read (.cdb [0xE5, 0x3C, 0x00, 0x91, 0x00]) = some (.vendorE5 0x3C 0x009100) := by decide
/-- R129: bytes 2 to 15 are the operand of `e6_params`; vector 2.7-s. -/
theorem test_decode_e6 :
    read (.cdb [0xE6, 0x02, 1, 2, 3, 4, 5, 6, 7, 8, 9, 10, 11, 12, 13, 14]) =
      some (.vendorE6_02 0x0102030405060708090A0B0C0D0E) ∧
    read (.cdb [0xE6, 0x06]) = some (.vendorE6_06 0) ∧ read (.cdb [0xE6, 0x01]) = some (.vendorE6BadSub 1) := by decide
/-- Vectors 2.7-h to 2.7-k. -/
theorem test_decode_e8 :
    read (.cdb [0xE8, 0x00]) = some .vendorE8_00 ∧ read (.cdb [0xE8, 0x01]) = some .vendorE8_01 ∧
    read (.cdb [0xE8, 0x51]) = some .vendorE8_51 ∧ read (.cdb [0xE8, 0x02]) = some (.vendorE8BadSub 2) := by decide
/-- Vector 2.6-r and R144: 0xE7 is no row's opcode. -/
theorem test_decode_illegal :
    read (.cdb [0xE7, 0]) = some (.illegalOpcode 0xE7) ∧ read (.cdb [0x1B]) = some (.illegalOpcode 0x1B) := by decide

/-- R131, R132: multi-byte fields of a setup packet are little-endian (vectors 2.4-q, 2.4-r). -/
theorem test_decode_get_status :
    read (.setup [0x80, 0, 0, 0, 0, 0, 2, 0]) = some (.getStatusDevice 0 0 2) ∧
    read (.setup [0x81, 0, 0, 0, 1, 0, 2, 0]) = some (.getStatusInterface 0 1 2) ∧
    read (.setup [0x82, 0, 0, 0, 0x81, 0, 2, 0]) = some (.getStatusEndpoint 0 0x81 2) := by decide
/-- Vector 2.4-s. -/
theorem test_decode_clear_feature : read (.setup [0x02, 0x01, 0, 0, 0x81, 0, 0, 0]) = some (.clearFeature 0 0x81 0) := by decide
/-- Vector 2.4-m. -/
theorem test_decode_set_address : read (.setup [0, 0x05, 0x07, 0, 0, 0, 0, 0]) = some (.setAddress 7 0 0) := by decide
/-- Vector 2.4-g: `wValue` 0x0303, `wIndex` 0x0409. -/
theorem test_decode_get_descriptor :
    read (.setup [0x80, 0x06, 0x02, 0x03, 0x09, 0x04, 0xFF, 0]) = some (.getDescriptor 3 2 0x0409 0x00FF) := by decide
/-- Vector 2.4-o. -/
theorem test_decode_set_configuration : read (.setup [0, 0x09, 1, 0, 0, 0, 0, 0]) = some (.setConfiguration 1 0 0) := by decide
/-- Vectors 2.4-u and 2.4-v. -/
theorem test_decode_class_requests :
    read (.setup [0x21, 0xFF, 0, 0, 0, 0, 0, 0]) = some (.bulkOnlyReset 0 0 0) ∧
    read (.setup [0xA1, 0xFE, 0, 0, 0, 0, 1, 0]) = some (.unhandledRequest 0xA1 0xFE 0 0 1) := by decide

/-- The second entry of program P3 (R139, R140), with 0x1000 for `STAGING_PCIE_ADDR`. -/
theorem test_decode_sqe_read :
    read (.sqe .io ([0x02, 0, 0x05, 0, 0x01, 0, 0, 0] ++ List.replicate 16 0 ++ [0, 0x10, 0, 0, 0, 0, 0, 0] ++
      List.replicate 8 0 ++ [0x08, 0x01, 0, 0, 0, 0, 0, 0, 0x07, 0, 0, 0] ++ List.replicate 12 0)) =
      some (.nvmeRead 5 1 0x1000 0x108 7) := by decide
/-- R139, R140: `SLBA` is `CDW10` and `CDW11`, low word first. -/
theorem test_decode_sqe_write :
    read (.sqe .io ([0x01, 0, 0, 1, 0x01, 0, 0, 0] ++ List.replicate 16 0 ++ [0, 0x10, 0, 0, 0, 0, 0, 0] ++
      List.replicate 8 0 ++ [1, 0, 0, 0, 2, 0, 0, 0, 0, 1, 0, 0] ++ List.replicate 12 0)) =
      some (.nvmeWrite 0x100 1 0x1000 0x200000001 0x100) := by decide
theorem test_decode_sqe_flush :
    read (.sqe .io ([0, 0, 9, 0, 1, 0, 0, 0] ++ List.replicate 56 0)) = some (.nvmeFlush 9 1) := by decide
/-- R140: Identify Controller has `CDW10` 1. -/
theorem test_decode_sqe_identify :
    read (.sqe .admin ([0x06, 0, 3, 0, 0, 0, 0, 0] ++ List.replicate 16 0 ++ [0, 0x10, 0, 0, 0, 0, 0, 0] ++
      List.replicate 8 0 ++ [1, 0, 0, 0] ++ List.replicate 20 0)) = some (.identify 3 0 0x1000 1 0) := by decide
/-- R140: `CDW10` is `(QD - 1) << 16` with the queue id 1, here for 16 entries. -/
theorem test_decode_sqe_create :
    read (.sqe .admin ([0x05, 0, 2, 0, 0, 0, 0, 0] ++ List.replicate 16 0 ++ [0, 0x20, 0, 0, 0, 0, 0, 0] ++
      List.replicate 8 0 ++ [1, 0, 15, 0, 3, 0, 0, 0] ++ List.replicate 16 0)) = some (.createIoCq 2 0x2000 0xF0001 3) ∧
    read (.sqe .admin ([0x01, 0, 3, 0, 0, 0, 0, 0] ++ List.replicate 16 0 ++ [0, 0x30, 0, 0, 0, 0, 0, 0] ++
      List.replicate 8 0 ++ [1, 0, 15, 0, 1, 0, 1, 0] ++ List.replicate 16 0)) =
      some (.createIoSq 3 0x3000 0xF0001 0x10001) := by decide
theorem test_decode_sqe_log_page :
    read (.sqe .admin ([0x02, 0, 0, 0, 0xFF, 0xFF, 0xFF, 0xFF] ++ List.replicate 16 0 ++ [0, 0x10, 0, 0, 0, 0, 0, 0] ++
      List.replicate 8 0 ++ [2, 0, 0x7F, 0] ++ List.replicate 20 0)) =
      some (.getLogPage 0 0xFFFFFFFF 0x1000 0x7F0002 0) := by decide

/-! ## Decoding: refusals by name -/

/-- The name of the refusal, if decoding refuses. -/
def refused (p : Packet) : Option DecodeError :=
  match decode p with
  | .ok _ => none
  | .error e => some e

theorem test_refuses_empty_cdb : refused (.cdb []) = some .cdbLength := by decide
theorem test_refuses_long_cdb : refused (.cdb (List.replicate 17 0)) = some .cdbLength := by decide
theorem test_refuses_short_setup : refused (.setup (List.replicate 7 0)) = some .setupLength := by decide
theorem test_refuses_short_entry : refused (.sqe .io (List.replicate 63 0)) = some .sqeLength := by decide
theorem test_refuses_entry_opcode : refused (.sqe .io (0x06 :: List.replicate 63 0)) = some .sqeOpcode := by decide
theorem test_refuses_entry_reserved :
    refused (.sqe .io (List.replicate 63 0 ++ [1])) = some .sqeReserved := by decide

/-! ## The words of the opcode table -/

theorem test_table_words :
    decodeTableWord 16 0x2800 = some (.read10 0 0) ∧ decodeTableWord 16 0xE651 = some (.vendorE6BadSub 0x51) ∧
    decodeTableWord 16 0x8006 = some (.getDescriptor 0 0 0 0) ∧ decodeTableWord 16 0x0102 = some (.nvmeRead 0 0 0 0 0) := by
  decide

/-! ## Steps: a small state each, one or two fields of the result -/

/-- The block in `READY` and configured, with a namespace of 1000 blocks of 512 bytes. -/
def up : State :=
  { State.reset with
    link := { Link.reset with state := .ready, phyReady := true, pcieLinkUp := true }
    usb := { Usb.reset with connected := true, config := 1 }
    nvme := { Nvme.reset with init := .done, identified := true, ioCreated := true, nsSize := 1000, blockSize := 512 } }

/-- `up` with the CBW of a command latched: tag 4, a direction and a length. -/
def cmd (d : Dir) (n : BitVec 32) : State := { up with ctx := { Ctx.reset with tag := 4, direction := d, expectedLen := n } }

/-- The next state of an instruction, if there is one. -/
def after (i : Instr) (s : State) : Option State :=
  match exec i s with
  | .next t => some t
  | .fault _ | .refused _ => none

/-- The CSWs and chunks handed to bulk-IN. -/
def sent (i : Instr) (s : State) : Option (List Bytes) := (after i s).map (·.usbIn)

/-- The first `n` bytes of `STAGING` and the length being sent. -/
def reply (n : Nat) (i : Instr) (s : State) : Option (Bytes × Nat) := (after i s).map fun t => (t.bytes .staging 0 n, t.dma.len)

/-- A CSW of tag 4. -/
def csw (res : Bytes) (st : Byte) : Bytes := [0x55, 0x53, 0x42, 0x53, 4, 0, 0, 0] ++ res ++ [st]

/-- Vector 2.5-j: no data needed, the residue is the whole offer, the host's bytes are dropped. -/
theorem test_test_unit_ready :
    sent .testUnitReady (cmd .dirOut 512) = some [csw [0, 2, 0, 0] 0] ∧
    (after .testUnitReady (cmd .dirOut 512)).map (·.usb.outArmed) = some (.discard 512) := by decide
/-- R313: not ready. -/
theorem test_test_unit_not_ready :
    (after .testUnitReady { cmd .dirNone 0 with nvme := Nvme.reset }).map (fun t => (t.usbIn, t.sense)) =
      some ([csw [0, 0, 0, 0] 1], { key := 2, asc := 4, ascq := 0, info := 0, infoValid := false }) := by decide
/-- The reply of program P4; the sense is cleared. -/
theorem test_request_sense :
    reply 18 (.requestSense 18) { cmd .dirIn 18 with sense := { key := 5, asc := 0x24, ascq := 0, info := 0, infoValid := false } } =
      some ([0x70, 0, 5, 0, 0, 0, 0, 0x0A, 0, 0, 0, 0, 0x24, 0, 0, 0, 0, 0], 18) := by decide
/-- R142 with valid information. -/
theorem test_request_sense_info :
    (after (.requestSense 255) { cmd .dirIn 255 with sense := { key := 3, asc := 0x11, ascq := 0, info := 0x108, infoValid := true } }).map
      (fun t => (t.bytes .staging 0 8, t.sense)) =
      some ([0xF0, 0, 3, 0, 0, 1, 8, 0x0A], { key := 0, asc := 0, ascq := 0, info := 0, infoValid := false }) := by decide
/-- Scenario S1. -/
theorem test_inquiry :
    reply 16 (.inquiry false 0 36) (cmd .dirIn 36) =
      some ([0, 0, 6, 2, 0x1F, 0, 0, 0, 0x41, 0x73, 0x6D, 0x65, 0x64, 0x69, 0x61, 0x20], 36) := by decide
/-- Vector 2.5-h: 36 bytes against 16 offered is a phase error. -/
theorem test_inquiry_phase :
    (after (.inquiry false 0 36) (cmd .dirIn 16)).map (fun t => (t.usbIn, t.ctx.afterCsw)) =
      some ([csw [16, 0, 0, 0] 2], .haltBoth) := by decide
/-- R314. -/
theorem test_mode_sense :
    reply 8 (.modeSense6 2 8 192) (cmd .dirIn 192) = some ([0x17, 0, 0, 0, 8, 0x12, 4, 0], 24) := by decide
/-- R315: last LBA 999, 512 bytes a block. -/
theorem test_read_capacity :
    reply 8 .readCapacity10 (cmd .dirIn 8) = some ([0, 0, 3, 0xE7, 0, 0, 2, 0], 8) := by decide
/-- Vector 2.6-j: a namespace past 32 bits. -/
theorem test_read_capacity_cap :
    reply 8 .readCapacity10 { cmd .dirIn 8 with nvme := { up.nvme with nsSize := 0x200000000, blockSize := 4096 } } =
      some ([0xFF, 0xFF, 0xFF, 0xFF, 0, 0, 0x10, 0], 8) := by decide
/-- Vector 2.6-l: `slba` 999, `nlb` 0, in the entry that is built. -/
theorem test_read10 :
    (after (.read10 999 1) (cmd .dirIn 512)).map
      (fun t => t.seq.submit.map fun r => (r.entry.take 8, (r.entry.drop 40).take 12, r.owner)) =
      some (some ([2, 0, 0, 0, 1, 0, 0, 0], [0xE7, 3, 0, 0, 0, 0, 0, 0, 0, 0, 0, 0], .ctx)) := by decide
/-- Vector 2.6-m: past the last block. -/
theorem test_read10_range :
    (after (.read10 999 2) (cmd .dirIn 1024)).map (fun t => (t.usbIn, t.sense.asc)) = some ([csw [0, 4, 0, 0] 1], 0x21) := by decide
/-- R317, R283: the first of two chunks is asked of the host. -/
theorem test_write10 :
    (after (.write10 16 9) (cmd .dirOut 4608)).map (fun t => (t.usb.outArmed, t.ctx.state)) =
      some (.data 4096, .awaitingData) := by decide
/-- Scenario S3: no length against one block. -/
theorem test_write10_phase :
    (after (.write10 0 1) (cmd .dirNone 0)).map (fun t => (t.usbIn, t.sense.key, t.sense.asc)) =
      some ([csw [0, 0, 0, 0] 2], 5, 0x24) := by decide
/-- Vector 2.6-o: a Flush entry of namespace 1. -/
theorem test_synchronize_cache :
    (after .synchronizeCache (cmd .dirNone 0)).map (fun t => t.seq.submit.map fun r => (r.q, r.entry.take 8)) =
      some (some (.io, [0, 0, 0, 0, 1, 0, 0, 0])) := by decide
/-- Vector 2.6-q. -/
theorem test_report_luns :
    reply 8 (.reportLuns 8) (cmd .dirIn 8) = some ([0, 0, 0, 8, 0, 0, 0, 0], 8) := by decide
/-- Vector 2.5-l: an unlisted opcode with data owed. -/
theorem test_illegal_opcode :
    (after (.illegalOpcode 0x1B) (cmd .dirOut 4096)).map (fun t => (t.usbIn, t.sense.asc, t.usb.outArmed)) =
      some ([csw [0, 0x10, 0, 0] 1], 0x20, .discard 4096) := by decide

set_option maxRecDepth 4000 in
/-- R344: block 1 stands at flash offset 128. -/
theorem test_e0 :
    (after (.vendorE0_50 1) { cmd .dirIn 128 with mem := Memory.mk [] |>.write .flash 128 0x5A }).map
      (fun t => (t.byte .staging 0, t.dma.len)) = some (0x5A, 128) := by decide
/-- Vector 2.7-b. -/
theorem test_e0_block : sent (.vendorE0_50 2) (cmd .dirIn 128) = some [csw [128, 0, 0, 0] 1] := by decide
/-- R345. -/
theorem test_e1 : (after (.vendorE1_50 1) (cmd .dirOut 128)).map (·.usb.outArmed) = some (.data 128) := by decide
/-- R347. -/
theorem test_e2 :
    (after (.vendorE2 2) { cmd .dirIn 2 with mem := Memory.mk [] |>.write .flash 1 0xA7 }).map
      (fun t => (t.byte .staging 1, t.dma.len)) = some (0xA7, 2) := by decide
/-- Vector 2.7-f. -/
theorem test_e2_long : sent (.vendorE2 4097) (cmd .dirIn 4097) = some [csw [1, 0x10, 0, 0] 1] := by decide
/-- Vector 2.9-d, first chunk. -/
theorem test_e3_part1 : (after (.vendorE3_50 10000) (cmd .dirOut 10000)).map (·.usb.outArmed) = some (.data 4096) := by decide
/-- Vector 2.7-g2. -/
theorem test_e3_part1_range : sent (.vendorE3_50 0x10000) (cmd .dirOut 0x10000) = some [csw [0, 0, 1, 0] 1] := by decide
/-- R348: a stream of no bytes passes at once. -/
theorem test_e3_part2 : sent (.vendorE3_D0 0) (cmd .dirNone 0) = some [csw [0, 0, 0, 0] 0] := by
  have h : ¬ 0x10000 + (0 : Nat) + 0 > Config.flashSize := by unfold Config.flashSize Config.fwPart2Base; omega
  simp only [sent, after, exec, execVendorE3Part2, runStream]
  rw [if_neg (by exact h)]
  decide
/-- Vectors 2.7-n and 2.7-p. -/
theorem test_e4_range :
    sent (.vendorE4 2 0xFFFF) (cmd .dirIn 2) = some [csw [2, 0, 0, 0] 1] ∧
    sent (.vendorE4 0 0x9100) (cmd .dirNone 0) = some [csw [0, 0, 0, 0] 0] := by decide
/-- R354: an address above 0xFFFF. -/
theorem test_e5_range : sent (.vendorE5 0x3C 0x010000) (cmd .dirNone 0) = some [csw [0, 0, 0, 0] 1] := by decide
/-- R355: without the link both end NOT READY. -/
theorem test_e6_link_down :
    (after (.vendorE6_02 0) { cmd .dirIn 4096 with link := { up.link with pcieLinkUp := false } }).map (·.sense.key) = some 2 ∧
    (after (.vendorE6_06 0) { cmd .dirIn 4096 with link := { up.link with pcieLinkUp := false } }).map (·.sense.key) = some 2 := by
  decide
/-- Vector 2.7-r: Identify on queue 0, 4096 bytes. -/
theorem test_e6_identify :
    (after (.vendorE6_06 0) (cmd .dirIn 4096)).map
      (fun t => (t.ctx.cmdLen, t.seq.submit.map fun r => (r.q, byteAt r.entry 0))) = some (4096, some (.admin, 6)) := by decide
/-- Vector 2.7-h: the CSW first, the reset when it is taken. -/
theorem test_e8_reset :
    (after .vendorE8_00 (cmd .dirNone 0)).map (fun t => (t.usbIn, t.ctx.afterCsw)) =
      some ([csw [0, 0, 0, 0] 0], .hardReset) := by decide
/-- Vector 2.7-i. -/
theorem test_e8_reenumerate :
    (after .vendorE8_01 (cmd .dirNone 0)).map (·.ctx.afterCsw) = some .reenumerate := by decide
/-- Vector 2.7-j. -/
theorem test_e8_commit :
    (after .vendorE8_51 (cmd .dirNone 0)).map (fun t => (t.fw.flashValid, t.ctx.afterCsw)) = some (true, .commitReset) := by decide
/-- R343, R342: the sense is kept. -/
theorem test_bad_sub :
    sent (.vendorE0BadSub 0x51) (cmd .dirIn 128) = some [csw [128, 0, 0, 0] 1] ∧
    sent (.vendorE1BadSub 0x51) (cmd .dirIn 128) = some [csw [128, 0, 0, 0] 1] ∧
    sent (.vendorE3BadSub 0x60) (cmd .dirIn 128) = some [csw [128, 0, 0, 0] 1] ∧
    sent (.vendorE6BadSub 0x01) (cmd .dirIn 128) = some [csw [128, 0, 0, 0] 1] ∧
    sent (.vendorE8BadSub 0x02) (cmd .dirIn 128) = some [csw [128, 0, 0, 0] 1] := by decide

/-- The reply and the phase after a setup packet. -/
def answer (i : Instr) (s : State) : Option (Bytes × CtlPhase × Bool) :=
  (after i s).map fun t => (t.ctl.reply, t.ctl.phase, t.usb.ep0Stalled)

/-- R243. -/
theorem test_get_status_device : answer (.getStatusDevice 0 0 2) up = some ([0, 0], .data, false) := by decide
theorem test_get_status_interface : answer (.getStatusInterface 0 1 2) up = some ([], .idle, true) := by decide
/-- Vector 2.4-r. -/
theorem test_get_status_endpoint :
    answer (.getStatusEndpoint 0 0x81 2) { up with usb := { up.usb with haltIn := true } } = some ([1, 0], .data, false) := by decide
/-- Vectors 2.4-s and 2.4-t. -/
theorem test_clear_feature :
    (after (.clearFeature 0 0x81 0) { up with usb := { up.usb with haltIn := true } }).map (·.usb.haltIn) = some false ∧
    (after (.clearFeature 0 0x81 0) { up with usb := { up.usb with haltIn := true, botResetRequired := true } }).map
      (fun t => (t.usb.haltIn, t.ctl.phase)) = some (true, .status) := by decide
/-- Vector 2.4-m, up to the status phase, and vector 2.4-n. -/
theorem test_set_address :
    (after (.setAddress 7 0 0) up).map (fun t => (t.ctl.pendingAddress, t.usb.address)) = some (some 7, 0) ∧
    answer (.setAddress 128 0 0) up = some ([], .idle, true) := by decide
/-- Vectors 2.4-e and 2.4-k. -/
theorem test_get_descriptor :
    answer (.getDescriptor 3 0 0 255) up = some ([4, 3, 9, 4], .data, false) ∧
    answer (.getDescriptor 6 0 0 10) up = some ([], .idle, true) := by decide
/-- Vectors 2.4-o and 2.4-p. -/
theorem test_set_configuration :
    (after (.setConfiguration 1 0 0) { up with usb := { up.usb with config := 0 } }).map
      (fun t => (t.usb.config, t.usb.outArmed)) = some (1, .cbw) ∧
    answer (.setConfiguration 2 0 0) up = some ([], .idle, true) := by decide
/-- R245: the reset is owed at the status phase. -/
theorem test_bulk_only_reset :
    (after (.bulkOnlyReset 0 0 0) up).map (fun t => (t.ctl.pendingAction, t.ctl.phase)) = some (.botReset, .status) := by decide
/-- Vector 2.4-v. -/
theorem test_unhandled_request : answer (.unhandledRequest 0xA1 0xFE 0 0 1) up = some ([], .idle, true) := by decide
/-- R236 and R179: no data or status flag is left of a stalled transfer, and an earlier transfer's flag stays. -/
theorem test_stall_flags :
    let s := agentStep .ctlStatus (takeSetup (List.replicate 8 0xFF) { up with ev := { up.ev with ctlData := true } })
    (s.ev.ctlData, s.ev.ctlStatus) = (true, true) ∧
    (after (.unhandledRequest 0xFF 0xFF 0 0 1) s).map (fun t => (t.ev.ctlSetup, t.ev.ctlData, t.ev.ctlStatus)) =
      some (false, true, false) := by decide

/-- The id, the opcode and the queue of slot 0, after an entry is submitted with the id counter at 4. -/
def slot0 (i : Instr) : Option (BitVec 16 × Bytes × Bool) :=
  (after i { up with nvme := { up.nvme with nextCid := 4 } }).map fun t =>
    ((t.nvme.slot 0).cid, (t.nvme.slot 0).sqe.take 4, (t.nvme.slot 0).inUse)

/-- R373, and the entry of scenario S2. -/
theorem test_submit_read : slot0 (.nvmeRead 0 1 0 0 0) = some (4, [2, 0, 4, 0], true) := by decide
theorem test_submit_write : slot0 (.nvmeWrite 0 1 0 0 0) = some (4, [1, 0, 4, 0], true) := by decide
theorem test_submit_flush : slot0 (.nvmeFlush 0 1) = some (4, [0, 0, 4, 0], true) := by decide
theorem test_submit_identify : slot0 (.identify 0 0 0 1 0) = some (4, [6, 0, 4, 0], true) := by decide
theorem test_submit_create_cq : slot0 (.createIoCq 0 0 0 3) = some (4, [5, 0, 4, 0], true) := by decide
theorem test_submit_create_sq : slot0 (.createIoSq 0 0 0 3) = some (4, [1, 0, 4, 0], true) := by decide
theorem test_submit_log_page : slot0 (.getLogPage 0 0 0 0 0) = some (4, [2, 0, 4, 0], true) := by decide
/-- Vector 2.8-h: the counter wraps past an id in use. -/
theorem test_cid_skips : freeCid [0] 9 0 = 1 ∧ freeCid [0] 9 65535 = 65535 := by decide

/-! ## The machine's other steps -/

/-- Vector 2.2-a. -/
theorem test_ep_lut :
    [0x00, 0x01, 0x02, 0x04, 0x06, 0x08, 0x0C, 0x80, 0xFF].map epLut = [8, 0, 1, 2, 1, 3, 2, 7, 0] := by decide
/-- Vector 2.2-c: an endpoint without a handler is recorded and nothing else happens. -/
theorem test_no_handler :
    (match epHandler 3 up with
      | .next t => some (t.faults.recs.head?.map (·.code), t.link.state)
      | .fault _ | .refused _ => none) = some (some .hookUnimplemented, .ready) := by decide
/-- Vector 2.2-d. -/
theorem test_unconfigured_bulk_out :
    (match epHandler 2 { up with usb := { up.usb with config := 0 } } with
      | .next t => some (t.faults.recs.head?.map (·.code), t.link.state)
      | .fault _ | .refused _ => none) = some (some .unexpectedEvent, .fault) := by decide
/-- Vector 2.10-a: nine faults in a ring of eight. -/
theorem test_ring_wraps :
    ([FaultCode.phyTimeout, .tunnelTimeout, .linkDown, .hwError, .dmaTimeout, .nvmeTimeout, .unexpectedEvent,
        .hookUnimplemented, .resetRequested].foldl (fun s c => appendFault c s) up).faults.wr = 1 := by decide
/-- Scenario S6: the fault of a lost link fails the command with its residue. -/
theorem test_link_down_in_read :
    (linkChange { cmd .dirIn 8192 with
        ctx := { (cmd .dirIn 8192).ctx with state := .executing, actual := 4096 } }).usbIn = [csw [0, 0x10, 0, 0] 1] := by decide
/-- Vector 2.8-c. -/
theorem test_status_sense :
    (senseOfStatus 0x6281 0x108).asc = 0x11 ∧ (senseOfStatus 0x6007 0).key = 0x0B ∧ (senseOfStatus 0x600B 0).asc = 0x20 ∧
    (senseOfStatus 0x6004 5).info = 5 := by decide
/-- Vector 2.8-i: Identify Namespace of 0x40000000 blocks of 4096 bytes. -/
theorem test_identify_namespace :
    (initNamespace { up with mem := ([(0, 0), (1, 0), (2, 0), (3, 0x40), (4, 0), (5, 0), (6, 0), (7, 0), (26, 1),
        (134, 0x0C)].foldl (fun m p => m.write .staging p.1 p.2) (Memory.mk []) : Memory) }).nvme.blockSize = 4096 := by decide
/-- Vector 2.1-f: hardware gives `TUN_CTRL` the value 0xFF between the halves of the read-modify-write of bit 0; its other bits
are lost. -/
theorem test_rmw_race :
    (regRmw (Role.addr .tunCtrl) 0x01 0x01 { up with phy := { up.phy with tunCtrl := 0x10 }, race := [some 0xFF] }).phy.tunCtrl =
      0x11 := by
  simp [regRmw, regReadVal, regReadState, regReadMem, regWrite, target_addr, hwBetween, hwChange, roleWrite, roleValue, rmwByte]
/-- R166: `DMA_DIR` is of class `RW`, so a byte written is read back; the transfer's direction is its bit 0. -/
theorem test_dma_dir_read_back :
    regReadVal (Role.addr .dmaDir) (regWrite (Role.addr .dmaDir) 0x02 up) = 0x02 ∧
    (regWrite (Role.addr .dmaDir) 0x02 up).dma.dir = .rx := by
  simp [regReadVal, regWrite, target_addr, roleWrite, roleValue, boolByte]
/-- R493: a second CBW is not taken while the event of the first is pending. -/
theorem test_no_coalescing :
    (offerBulkOut [0xAA] { up with usb := { up.usb with outArmed := .cbw }, ev := { up.ev with epMask := 4 }, ctrlLen := 31 }).ctrlLen =
      31 := by decide
/-- R488: with a context alive a CBW is refused, and latching a CBW disarms bulk-OUT. -/
theorem test_no_second_cbw :
    (offerBulkOut [0xAA] { up with usb := { up.usb with outArmed := .cbw }, ctx := { up.ctx with state := .executing },
                                   ctrlLen := 31 }).ctrlLen = 31 ∧
    (latchCbw [] { up with usb := { up.usb with outArmed := .cbw } }).usb.outArmed = .none := by decide
/-- R249: with configuration 0 nothing is armed and nothing is taken. -/
theorem test_unconfigured_not_armed :
    (writeNextChunk { cmd .dirOut 512 with usb := Usb.reset, ctx := { (cmd .dirOut 512).ctx with cmdLen := 512 } }).usb.outArmed =
      .none ∧
    (offerBulkOut [0xAA] { up with usb := { Usb.reset with connected := true, outArmed := .data 512 } }).usbOut = [] := by decide
/-- R343, R455: the driver fails the read of 0xE0. -/
theorem test_e0_driver_fails :
    sent (.vendorE0_50 0) { cmd .dirIn 128 with flashOk := false } = some [csw [128, 0, 0, 0] 1] := by decide
/-- R7, R84: a program of two bytes across a page boundary puts both in place. -/
theorem test_program_pages :
    ((programPages 2 (Memory.mk []) 255 [1, 2]).get (key .flash 255), (programPages 2 (Memory.mk []) 255 [1, 2]).get (key .flash 256)) =
      (some 1, some 2) := by decide
/-- Vector 2.5-b: the third byte of the signature is wrong. -/
theorem test_invalid_cbw : validCbw ([0x55, 0x53, 0x42, 0x44] ++ List.replicate 10 0 ++ [6] ++ List.replicate 16 0) 31 = false := by
  decide
/-- Vector 2.5-e. -/
theorem test_latch_cbw :
    (latchCbw ([0x55, 0x53, 0x42, 0x43, 1, 2, 3, 4, 0, 0, 0, 0, 0x7F, 0xF3, 16] ++ List.replicate 16 0) up).ctx.lun = 3 ∧
    (latchCbw ([0x55, 0x53, 0x42, 0x43, 1, 2, 3, 4, 0, 0, 0, 0, 0x7F, 0xF3, 16] ++ List.replicate 16 0) up).ctx.tag = 0x04030201 := by
  decide

/-! ## A state and operands that meet the hypotheses of each statement -/

theorem witness_DecodeEncode :
    (Instr.vendorE8BadSub 0x02).wf = true ∧ (Instr.illegalOpcode 0xE7).wf = true ∧
    (Instr.unhandledRequest 0x21 0xFE 0 0 0).wf = true ∧ (Instr.read10 0xFFFFFFFF 0xFFFF).wf = true := by decide
theorem witness_EncodeDecode_setup : ([0xA1, 0xFE, 0, 0, 0, 0, 1, 0] : Bytes).length = 8 := rfl
theorem witness_EncodeDecode_entry :
    decode (.sqe .io ([0, 0, 9, 0, 1, 0, 0, 0] ++ List.replicate 56 0)) = .ok (.nvmeFlush 9 1) := rfl
theorem witness_DecodedWellFormed : decode (.cdb [0xE8, 0x02]) = .ok (.vendorE8BadSub 2) := rfl

/-- `up` at a bulk-OUT event with the CBW of a READ(10) of one block received. -/
def atCbw : State := State.reset.withFetchWord 16 0x2800

/-- A turn given by the next input, and one given by an empty schedule; the CDB's length is at either end of its range. -/
theorem witness_StepRunsCdb :
    turn atCbw { atCbw with env := [] } ∧ turn { atCbw with env := [] } { atCbw with env := [] } ∧
    atCbw.seq.wait = none ∧ atCbw.seq.submit = none ∧ atCbw.seq.pos = .epServe 0x04 ∧ epLut 0x04 = 2 ∧
    atCbw.link.state = .ready ∧ atCbw.usb.config ≠ 0 ∧ atCbw.ctx.state = .done ∧ CbwValid atCbw ∧
    decode (.cdb (cbwContext atCbw).cdb) = .ok (.read10 0 0) ∧
    ∀ n : BitVec 8, n = 1 ∨ n = 16 → CbwValid { atCbw with mem := atCbw.mem.write .ctrlbuf 14 n } := by
  refine ⟨.inr ⟨[], rfl, rfl⟩, .inl ⟨rfl, rfl⟩, rfl, rfl, rfl, rfl, rfl, by decide, rfl, ?_, rfl, ?_⟩
  · unfold CbwValid
    decide
  · rintro n (rfl | rfl) <;> (unfold CbwValid; decide)

/-- `up` at a setup flag. -/
def atSetup : State := State.reset.withFetchWord 16 0x8006

theorem witness_StepRunsSetup :
    turn atSetup { atSetup with env := [] } ∧ atSetup.seq.wait = none ∧ atSetup.seq.submit = none ∧
    atSetup.seq.pos = .ctlSetup ∧ atSetup.ev.ctlSetup = true ∧ atSetup.link.state = .ready ∧
    decode (.setup atSetup.ctl.setup) = .ok (.getDescriptor 0 0 0 0) :=
  ⟨.inr ⟨[], rfl, rfl⟩, rfl, rfl, rfl, rfl, rfl, rfl⟩

/-- A Flush entry built for the context. -/
def flushReq : SubmitReq := { q := .io, entry := sqeBytes 0 0 1 0 0 0 0, owner := .ctx }

/-- `up` with that entry about to be issued. -/
def atSubmit : State := { up with seq := { pos := .top, wait := none, submit := some flushReq } }

theorem witness_StepRunsEntry :
    atSubmit.seq.wait = none ∧ atSubmit.seq.submit = some flushReq ∧
    decode (.sqe flushReq.q flushReq.entry) = .ok (.nvmeFlush 0 1) := ⟨rfl, rfl, rfl⟩

theorem witness_MemoryKept :
    MemInv { up with mem := (Memory.mk []).write .staging 7 0x5A } ∧
    ∃ t, step { up with mem := (Memory.mk []).write .staging 7 0x5A } = .next t := by
  refine ⟨?_, _, rfl⟩
  unfold MemInv
  decide

/-- Two commands in flight with ids 4 and 5. -/
def inFlight : State :=
  { up with nvme := { up.nvme with
      nextCid := 6
      slots := { Slot.free with inUse := true, q := .io, cid := 4, owner := .ctx } ::
        { Slot.free with inUse := true, cid := 5, owner := .init } :: List.replicate 6 Slot.free } }

theorem witness_CidsKept : CidInv inFlight ∧ ∃ t, step inFlight = .next t := by
  refine ⟨⟨rfl, ?_⟩, _, rfl⟩
  unfold Config.kMax
  intro i j hi hj
  interval_cases i <;> interval_cases j <;> decide

theorem witness_HeadsKept : HeadInv up ∧ ∃ t, step up = .next t := by
  refine ⟨?_, _, rfl⟩
  rintro ⟨⟩ <;> simp [up, Nvme.queue, Nvme.reset, QueuePair.reset]

theorem witness_BlockSizeKept : BlockInv up ∧ up.nvme.identified = true ∧ ∃ t, step up = .next t := by
  refine ⟨?_, rfl, _, rfl⟩
  unfold BlockInv
  decide

theorem witness_LinkTransitions : ∃ t, step { State.reset with seq := { Seq.reset with pos := .linkTick } } = .next t ∧
    t.link.state = .phyInit := ⟨_, rfl, rfl⟩

theorem witness_CbwFieldsConstant : ∃ t, step atCbw = .next t ∧ t.ctx.tag = 1 := ⟨_, rfl, by decide⟩

/-- The end of the wait for a one-byte chunk of 0xE1, with known bytes in `STAGING` and in the flash. -/
def atFlash : State :=
  { up with
    ctx := { Ctx.reset with cdb := padTo 16 [0xE1, 0x50, 0], cmdDir := .dirOut, cmdLen := 1, expectedLen := 1, state := .awaitingData }
    dma := { Dma.reset with len := 1, moved := 1, done := true }
    seq := { pos := .top, wait := some { pred := .dmaDone, start := 0, bound := 1, resume := .rx 1 }, submit := none }
    mem := ((Memory.mk []).write .flash 0 0x55).write .staging 0 0x66 }

/-- What the chunk runs on. -/
def atFlashChunk : State := armOut .none { atFlash with
  seq := { atFlash.seq with wait := none }
  ctx := { atFlash.ctx with actual := 1, state := .executing } }

theorem witness_FlashWriters : ∃ t, step atFlash = .next t ∧ ∃ o, t.byte .flash o ≠ atFlash.byte .flash o := by
  have hstep : step atFlash = flashChunk 0 1 id atFlashChunk := rfl
  have hsize : ¬ Config.flashSize < 0 + 1 := by unfold Config.flashSize Config.fwPart2Base; omega
  refine ⟨nextOutChunk (id (flashProgram 0 (atFlashChunk.bytes .staging 0 1) atFlashChunk)), ?_, 0, ?_⟩
  · rw [hstep]
    unfold flashChunk
    rw [if_neg hsize]
    rfl
  · have hb : (nextOutChunk (id (flashProgram 0 (atFlashChunk.bytes .staging 0 1) atFlashChunk))).byte .flash 0 = 0x66 := by
      have hn : nextOutChunk (id (flashProgram 0 (atFlashChunk.bytes .staging 0 1) atFlashChunk)) =
          finish 0 { flashProgram 0 (atFlashChunk.bytes .staging 0 1) atFlashChunk with
            ctx := { atFlashChunk.ctx with chunkIdx := 1 } } := rfl
      rw [hn, finish_changes 0 _ .flash 0 (by rintro ⟨h, _⟩; cases h)]
      refine (memByte_writeBytes _ _ _ _ _ _ _).trans ?_
      decide
    rw [hb]
    decide

/-- The host offers one byte to `up`, armed for a CBW. -/
def atOffer : State := { up with usb := { up.usb with outArmed := .cbw }, env := [.bulkOut [0xAA]] }

theorem witness_CbwTakenOnlyInDone : ∃ t, step atOffer = .next t ∧ t.ctrlLen ≠ atOffer.ctrlLen := ⟨_, rfl, by decide⟩

theorem witness_FirmwareValidOnlyByCommit :
    (State.reset.withFetchWord 16 0xE851).fw.flashValid = false ∧
    ∃ t, step (State.reset.withFetchWord 16 0xE851) = .next t ∧ t.fw.flashValid = true := ⟨rfl, _, rfl, by decide⟩

/-- The link in `FAULT`, without a CSW out and with one that may still go out. -/
theorem witness_FaultReturn :
    (∃ s : State, s.link.state = .fault ∧ s.usb.inBusy = .none) ∧
    ∃ s : State, s.link.state = .fault ∧ s.usb.inBusy = .csw ∧ s.now - s.link.stateEntry < Config.tCswFlush := by
  refine ⟨⟨{ up with link := { up.link with state := .fault } }, rfl, rfl⟩,
    { up with link := { up.link with state := .fault }, usb := { up.usb with inBusy := .csw }, now := Config.tCswFlushPred },
    rfl, rfl, ?_⟩
  change Config.tCswFlushPred - 0 < Config.tCswFlushPred + 1
  omega

theorem witness_EndpointLookup : (0x80 : BitVec 8) ≠ 0 ∧ (0xFF : BitVec 8) ≠ 0 := by decide

/-- The link in a state for `n` ticks, with the given levels. -/
def linkAt (l : LinkState) (n : Nat) (a b c k : Bool) (retries : Nat) (st : InitStep) : State :=
  { up with now := n, link := { Link.reset with state := l, retryCounter := retries }
            phy := { Phy.reset with rdyA := a, rdyB := b, tunComplete := c, clocksOn := k }
            nvme := { Nvme.reset with init := st } }

/-- One state for each clause, at the ends of its range: both bits at the tick the window ends, the last tick before it,
the second and the third time-out, the last tick before the time-out of `LINK_TRAIN`, and the other states. -/
theorem witness_BringUpTicks :
    (∃ s : State, s.link.state = .off) ∧
    (∃ s : State, s.link.state = .phyInit ∧ s.phy.rdyA = true ∧ s.phy.rdyB = true) ∧
    (∃ s : State, s.link.state = .phyInit ∧ (s.phy.rdyA && s.phy.rdyB) = false ∧ s.now - s.link.stateEntry < Config.tPhyReady) ∧
    (∃ s : State, s.link.state = .phyInit ∧ (s.phy.rdyA && s.phy.rdyB) = false ∧
      Config.tPhyReady ≤ s.now - s.link.stateEntry ∧ s.link.retryCounter + 1 < 3) ∧
    (∃ s : State, s.link.state = .phyInit ∧ (s.phy.rdyA && s.phy.rdyB) = false ∧
      Config.tPhyReady ≤ s.now - s.link.stateEntry ∧ 3 ≤ s.link.retryCounter + 1) ∧
    (∃ s : State, s.link.state = .linkTrain ∧ s.phy.tunComplete = true) ∧
    (∃ s : State, s.link.state = .linkTrain ∧ s.phy.tunComplete = false ∧ Config.tLinkTrain ≤ s.now - s.link.stateEntry) ∧
    (∃ s : State, s.link.state = .linkTrain ∧ s.phy.tunComplete = false ∧ s.now - s.link.stateEntry < Config.tLinkTrain) ∧
    (∃ s : State, s.link.state = .tunnelCfg ∧ s.nvme.init = .idle) ∧
    (∃ s : State, s.link.state = .tunnelCfg ∧ s.nvme.init = .createSq) ∧
    (∃ s : State, s.link.state = .tunnelCfg ∧ (s.nvme.init = .done ∨ s.nvme.init = .failed)) :=
  ⟨⟨State.reset, rfl⟩,
   ⟨linkAt .phyInit Config.tPhyReady true true false true 2 .idle, rfl, rfl, rfl⟩,
   ⟨linkAt .phyInit Config.tPhyReadyPred true false false true 0 .idle, rfl, rfl, by
      change Config.tPhyReadyPred - 0 < Config.tPhyReadyPred + 1; omega⟩,
   ⟨linkAt .phyInit Config.tPhyReady true false false true 1 .idle, rfl, rfl, Nat.le_refl _, by decide⟩,
   ⟨linkAt .phyInit Config.tPhyReady false true false true 2 .idle, rfl, rfl, Nat.le_refl _, by decide⟩,
   ⟨linkAt .linkTrain Config.tLinkTrain true true true true 0 .idle, rfl, rfl⟩,
   ⟨linkAt .linkTrain Config.tLinkTrain true true false true 0 .idle, rfl, rfl, Nat.le_refl _⟩,
   ⟨linkAt .linkTrain Config.tLinkTrainPred true true false true 0 .idle, rfl, rfl, by
      change Config.tLinkTrainPred - 0 < Config.tLinkTrainPred + 1; omega⟩,
   ⟨linkAt .tunnelCfg 0 true true true true 0 .idle, rfl, rfl⟩,
   ⟨linkAt .tunnelCfg 0 true true true true 0 .createSq, rfl, rfl⟩,
   ⟨linkAt .tunnelCfg 0 true true true true 0 .failed, rfl, .inr rfl⟩⟩

theorem witness_SuspendResume :
    (up.link.state = .ready ∧ up.ctx.state = .done ∧ ctxOutstanding up = false) ∧
    (inFlight.link.state = .ready ∧ ctxOutstanding inFlight = true) ∧
    (∃ s : State, s.link.state ≠ .ready ∧ s.link.state = .suspend) ∧ up.link.state ≠ .suspend ∧
    (∃ s : State, s.link.state = .resume ∧ s.phy.clocksOn = true) ∧
    (∃ s : State, s.link.state = .resume ∧ s.phy.clocksOn = false ∧ Config.tResume ≤ s.now - s.link.stateEntry) ∧
    (∃ s : State, s.link.state = .resume ∧ s.phy.clocksOn = false ∧ s.now - s.link.stateEntry < Config.tResume) := by
  refine ⟨by decide, by decide, ⟨linkAt .suspend 0 true true true true 0 .done, ?_⟩, by decide,
    ⟨linkAt .resume 0 true true true true 0 .done, rfl, rfl⟩,
    ⟨linkAt .resume Config.tResume true true true false 0 .done, rfl, rfl, Nat.le_refl _⟩,
    ⟨linkAt .resume Config.tResumePred true true true false 0 .done, rfl, rfl, ?_⟩⟩
  · exact ⟨by decide, rfl⟩
  · change Config.tResumePred - 0 < Config.tResumePred + 1
    omega

/-- Every link state that an event's clause names, a command in flight with bulk-IN free and with a CSW out, and none. -/
theorem witness_BusAndSystemEvents :
    (∀ l, (linkAt l 0 true true true true 0 .done).link.state = l) ∧
    (cmd .dirIn 8).ctx.state = .done ∧
    (∀ b, b = InBusy.none ∨ b = InBusy.csw →
      ({ cmd .dirIn 8 with ctx := { (cmd .dirIn 8).ctx with state := .executing }
                           usb := { up.usb with inBusy := b } } : State).ctx.state = .executing) :=
  ⟨fun _ => rfl, rfl, fun _ _ => rfl⟩

/-- No length, the wrong direction, and one byte too few. -/
theorem witness_PhaseErrorEnds :
    needs (.write10 0 1) (cmd .dirNone 0) = some (.dirOut, 512) ∧ ¬ phaseOk (cmd .dirNone 0) .dirOut 512 ∧
    needs (.inquiry false 0 36) (cmd .dirOut 36) = some (.dirIn, 36) ∧ ¬ phaseOk (cmd .dirOut 36) .dirIn 36 ∧
    ¬ phaseOk (cmd .dirIn 35) .dirIn 36 := by
  unfold phaseOk
  decide

theorem witness_NotReadyEnds :
    ready State.reset = false ∧ (State.reset.link.state ≠ .ready ∨ State.reset.link.pcieLinkUp = false) := by decide

/-- Each clause at the first value past its range. -/
theorem witness_VendorErrorEnds :
    1 < (2 : BitVec 8).toNat ∧ 4096 < (4097 : BitVec 32).toNat ∧
    0x10000 < 0x80 + up.fw.cursor1.toNat + (0xFF81 : BitVec 32).toNat ∧
    (Config.flashSize < 0x1000F → Config.flashSize < 0x10000 + up.fw.cursor2.toNat + (0xF : BitVec 32).toNat) ∧
    64 < (65 : BitVec 8).toNat ∧ 0xFFFF < (0x10000 : BitVec 24).toNat ∧
    0x10000 < (0xFFFF : BitVec 24).toNat + (2 : BitVec 8).toNat := by
  exact ⟨by decide, by decide, by decide, fun h => h, by decide, by decide, by decide⟩

theorem witness_IllegalRequestEnds :
    ready up = true ∧ up.nvme.nsSize.toNat < (999 : BitVec 32).toNat + (2 : BitVec 16).toNat := by decide

/-- The phase check passes at the exact length and where nothing is to be moved. -/
theorem witness_DataIn :
    phaseOk (cmd .dirIn 18) .dirIn (min 18 (18 : BitVec 8).toNat) ∧ phaseOk (cmd .dirNone 0) .dirIn (min 18 (0 : BitVec 8).toNat) ∧
    phaseOk (cmd .dirIn 36) .dirIn (min 36 (255 : BitVec 16).toNat) ∧ phaseOk (cmd .dirIn 24) .dirIn (min 24 (192 : BitVec 8).toNat) ∧
    phaseOk (cmd .dirIn 16) .dirIn (min 16 (4096 : BitVec 32).toNat) := by
  unfold phaseOk
  decide

theorem witness_ReadCapacity :
    ready (cmd .dirIn 8) = true ∧ (cmd .dirIn 8).nvme.nsSize ≠ 0 ∧ phaseOk (cmd .dirIn 8) .dirIn 8 := by
  unfold phaseOk
  decide

/-- The last block, and no blocks past the last one. -/
theorem witness_Read10 :
    ready (cmd .dirIn 512) = true ∧ (999 : BitVec 32).toNat + (1 : BitVec 16).toNat ≤ (cmd .dirIn 512).nvme.nsSize.toNat ∧
    (cmd .dirIn 512).nvme.blockSize = 512 ∧ phaseOk (cmd .dirIn 512) .dirIn 512 ∧
    (1000 : BitVec 32).toNat + (0 : BitVec 16).toNat ≤ (cmd .dirIn 512).nvme.nsSize.toNat ∧ phaseOk (cmd .dirNone 0) .dirIn 0 := by
  unfold phaseOk
  decide

theorem witness_Write10 :
    ready (cmd .dirOut 512) = true ∧ (999 : BitVec 32).toNat + (1 : BitVec 16).toNat ≤ (cmd .dirOut 512).nvme.nsSize.toNat ∧
    (cmd .dirOut 512).ctx.actual = 0 ∧ phaseOk (cmd .dirOut 512) .dirOut 512 := by
  unfold phaseOk
  decide

theorem witness_SynchronizeCache : ready (cmd .dirNone 0) = true := by decide

/-- A read that succeeds, one that fails, and one of no bytes. -/
theorem witness_FlashReads :
    (1 : BitVec 8).toNat ≤ 1 ∧ phaseOk (cmd .dirIn 128) .dirIn 128 ∧ (4096 : BitVec 32).toNat ≤ 4096 ∧
    phaseOk (cmd .dirIn 4096) .dirIn 4096 ∧ phaseOk (cmd .dirNone 0) .dirIn (0 : BitVec 32).toNat ∧
    (cmd .dirIn 128).flashOk = true ∧ ({ cmd .dirIn 128 with flashOk := false } : State).flashOk = false := by
  unfold phaseOk
  decide

/-- Each part filled to its last byte (part 2 to the least size the flash can have). -/
theorem witness_FlashWritesAsk :
    (1 : BitVec 8).toNat ≤ 1 ∧ 0x80 + (cmd .dirOut 0xFF80).fw.cursor1.toNat + (0xFF80 : BitVec 32).toNat ≤ 0x10000 ∧
    0x10000 + (cmd .dirOut 1).fw.cursor2.toNat + (1 : BitVec 32).toNat ≤ Config.flashSize ∧ (cmd .dirOut 1).ctx.actual = 0 ∧
    phaseOk (cmd .dirOut 128) .dirOut 128 ∧ phaseOk (cmd .dirOut 0xFF80) .dirOut 0xFF80 ∧ phaseOk (cmd .dirOut 1) .dirOut 1 := by
  refine ⟨by decide, by decide, ?_, by decide, ?_⟩
  · have : (cmd .dirOut 1).fw.cursor2.toNat = 0 := rfl
    rw [this]
    unfold Config.flashSize Config.fwPart2Base
    change 0x10000 + 0 + 1 ≤ _
    omega
  · unfold phaseOk
    decide

/-- The last 64 registers (vector 2.7-l), and no register. -/
theorem witness_RegisterRead :
    (64 : BitVec 8).toNat ≤ 64 ∧ (0xFFC0 : BitVec 24).toNat ≤ 0xFFFF ∧ (0xFFC0 : BitVec 24).toNat + (64 : BitVec 8).toNat ≤ 0x10000 ∧
    phaseOk (cmd .dirIn 64) .dirIn 64 ∧ phaseOk (cmd .dirNone 0) .dirIn 0 := by
  unfold phaseOk
  decide

theorem witness_RegisterWrite : (0xFFFF : BitVec 24).toNat ≤ 0xFFFF := by decide

/-- Fewer than 100 addresses are roles' or the fault-ring window's, so one of the backing array exists. -/
theorem witness_RegisterLaw_plain : ∃ a : BitVec 16, target a = .plain := by
  by_contra hno
  have hno : ∀ a : BitVec 16, target a ≠ .plain := fun a h => hno ⟨a, h⟩
  let taken : Finset (BitVec 16) := (Role.all.map Role.addr).toFinset ∪
    ((List.range faultRingSize).map fun i => BitVec.ofNat 16 (faultRingBase + i)).toFinset
  have hcover : (Finset.univ : Finset (Fin 65536)) ⊆ taken.image fun a => a.toFin := by
    intro x _
    rw [Finset.mem_image]
    refine ⟨BitVec.ofFin x, ?_, rfl⟩
    have h := hno (BitVec.ofFin x)
    unfold target at h
    rw [Finset.mem_union, List.mem_toFinset, List.mem_toFinset, List.mem_map, List.mem_map]
    split at h
    · rename_i r hr
      left
      unfold roleAt at hr
      exact ⟨r, List.mem_of_find?_eq_some hr, by simpa using List.find?_some hr⟩
    · split at h
      · rename_i hw
        right
        simp only [inRing, Bool.and_eq_true, decide_eq_true_eq] at hw
        refine ⟨(BitVec.ofFin x : BitVec 16).toNat - faultRingBase, List.mem_range.mpr (by omega), ?_⟩
        rw [Nat.add_sub_cancel' hw.1]
        exact BitVec.eq_of_toNat_eq (by simp)
      · exact absurd rfl h
  have h1 : 65536 ≤ taken.card := by
    have := Finset.card_le_card hcover
    rw [Finset.card_univ, Fintype.card_fin] at this
    exact this.trans Finset.card_image_le
  have h2 : taken.card ≤ 23 + 72 := by
    refine (Finset.card_union_le _ _).trans (Nat.add_le_add ?_ ?_)
    · exact (List.toFinset_card_le _).trans (by decide)
    · exact (List.toFinset_card_le _).trans (by simp [faultRingSize, Config.faultRingN])
  omega

/-- A read-only and four read-write addresses, wherever they lie. -/
theorem witness_RegisterLaw_class :
    policyOf (Role.addr .usbEpEvent) = .ro ∧ policyOf (Role.addr .usbEpStall) = .rw ∧ policyOf (Role.addr .dmaDir) = .rw ∧
    policyOf (Role.addr .dmaLen) = .rw ∧ policyOf (Role.addr .tunCtrl) = .rw := by
  simp only [policyOf_addr]
  decide

theorem witness_AdminPassthrough :
    (cmd .dirIn 4096).link.state = .ready ∧ (cmd .dirIn 4096).link.pcieLinkUp = true ∧
    phaseOk (cmd .dirIn 4096) .dirIn (Config.e6Len 0).val ∧ phaseOk (cmd .dirIn 4096) .dirIn 4096 := by
  refine ⟨rfl, rfl, ⟨.inr rfl, ?_⟩, ⟨.inr rfl, Nat.le_refl _⟩⟩
  exact Nat.le_of_lt_succ (Config.e6Len 0).isLt

theorem witness_StatusPhase :
    up.link.state = .ready ∧ up.ctl.phase ≠ .status ∧ up.ctl.phase ≠ .data ∧
    (∃ s : State, s.link.state = .ready ∧ s.ctl.phase = .data) ∧
    (∃ s : State, s.link.state = .resume ∧ s.ctl.phase = .status ∧ s.ctl.pendingAction = .none) ∧
    (∃ s : State, s.link.state = .ready ∧ s.ctl.phase = .status ∧ s.ctl.pendingAction = .botReset) := by
  refine ⟨rfl, by decide, by decide, ⟨{ up with ctl := { Ctl.reset with phase := .data } }, rfl, rfl⟩,
    ⟨{ up with link := { up.link with state := .resume }, ctl := { Ctl.reset with phase := .status } }, ?_⟩,
    ⟨{ up with ctl := { Ctl.reset with phase := .status, pendingAction := .botReset } }, ?_⟩⟩ <;> decide

/-- One byte short, and a CDB length at either end outside its range. -/
theorem witness_InvalidCbwStalls :
    ¬ CbwValid { atCbw with ctrlLen := 30 } ∧ ¬ CbwValid { atCbw with mem := atCbw.mem.write .ctrlbuf 14 0 } ∧
    ¬ CbwValid { atCbw with mem := atCbw.mem.write .ctrlbuf 14 17 } := by
  unfold CbwValid
  decide

/-- `up` with a CSW out. -/
def cswOut (st : CtxState) (a : AfterCsw) : State :=
  { up with usb := { up.usb with inBusy := .csw }, ctx := { Ctx.reset with state := st, afterCsw := a } }

theorem witness_BulkInAcknowledged :
    ((cswOut .awaitingCsw .nothing).ctx.afterCsw = .nothing ∧ (cswOut .awaitingCsw .nothing).ctx.state = .awaitingCsw ∧
      (cswOut .awaitingCsw .nothing).usb.config = 1 ∧ (cswOut .awaitingCsw .nothing).usb.haltOut = false ∧
      (cswOut .awaitingCsw .nothing).link.state = .ready) ∧
    ((cswOut .stalled .nothing).ctx.afterCsw = .nothing ∧ (cswOut .stalled .nothing).ctx.state = .stalled) ∧
    (cswOut .awaitingCsw .haltBoth).ctx.afterCsw = .haltBoth ∧ (cswOut .awaitingCsw .hardReset).ctx.afterCsw = .hardReset ∧
    (cswOut .awaitingCsw .commitReset).ctx.afterCsw = .commitReset ∧
    (cswOut .awaitingCsw .reenumerate).ctx.afterCsw = .reenumerate ∧
    (cswOut .awaitingCsw .reenumerate).link.state ≠ .recovery := by decide

/-- `up` with a payload chunk of 512 bytes out for a command, and `n` blocks left. -/
def chunkOut (st : CtxState) (op : Byte) (n : BitVec 32) : State :=
  { up with usb := { up.usb with inBusy := .data 512 }
            ctx := { Ctx.reset with state := st, tag := 4, cdb := padTo 16 [op], blocksLeft := n } }

/-- INQUIRY, the last and a middle chunk of READ(10), and a chunk behind which a CSW is owed. -/
theorem witness_BulkInAcknowledged_chunk :
    (∀ st op n, (chunkOut st op n).link.state = .ready ∧ (chunkOut st op n).usb.config ≠ 0 ∧
      (chunkOut st op n).usb.inBusy = .data 512 ∧ (chunkOut st op n).ctx.state = st ∧ (chunkOut st op n).ctx.blocksLeft = n) ∧
    byteAt (chunkOut .sendingData 0x12 0).ctx.cdb 0 ≠ 0x28 ∧ byteAt (chunkOut .sendingData 0x28 1).ctx.cdb 0 = 0x28 :=
  ⟨fun _ _ _ => ⟨rfl, (by decide : (1 : BitVec 8) ≠ 0), rfl, rfl, rfl⟩, by decide, by decide⟩

/-- R292: INQUIRY ends with its CSW after the data was taken. -/
theorem test_chunk_taken :
    (bulkInHandler (chunkOut .sendingData 0x12 0)).usbIn = [csw [0, 0, 0, 0] 0] ∧
    (bulkInHandler (chunkOut .sendingData 0x28 1)).usbIn = [] ∧
    (bulkInHandler (chunkOut .sendingData 0x28 1)).seq.submit.isSome = true := by decide

/-- Bulk-OUT may not be armed: in `FAULT`, without a configuration, and halted. -/
theorem witness_BulkInAcknowledged_notArmed :
    ∀ s : State, s = { cswOut .awaitingCsw .nothing with link := { up.link with state := .fault } } ∨
      s = { cswOut .awaitingCsw .nothing with usb := { up.usb with inBusy := .csw, config := 0 } } ∨
      s = { cswOut .awaitingCsw .nothing with usb := { up.usb with inBusy := .csw, haltOut := true } } →
    s.ctx.afterCsw = .nothing ∧ s.ctx.state = .awaitingCsw ∧
      (s.usb.config ≠ 1 ∨ s.usb.haltOut = true ∨ (s.link.state ≠ .ready ∧ s.link.state ≠ .resume)) := by
  rintro s (rfl | rfl | rfl) <;> decide

/-- A whole staging buffer, and the last byte of it. -/
theorem witness_DmaMoves :
    (∃ s : State, s.dma.busy = true ∧ 1 ≤ s.dma.len ∧ s.dma.ptr + s.dma.len ≤ 4096 ∧ s.dma.moved < s.dma.len ∧ s.dma.dir = .rx) ∧
    (∃ s : State, s.dma.busy = true ∧ 1 ≤ s.dma.len ∧ s.dma.ptr + s.dma.len ≤ 4096 ∧ s.dma.moved < s.dma.len ∧ s.dma.dir = .tx) := by
  refine ⟨⟨{ up with dma := { Dma.reset with busy := true, len := 4096 } }, ?_⟩,
    ⟨{ up with dma := { Dma.reset with dir := .tx, busy := true, len := 1, ptr := 4095 } }, ?_⟩⟩ <;> decide

/-- `up` waiting for a DMA transfer of 512 bytes, with a command's CDB. -/
def waiting (r : Resume) (op : Byte) (done : Bool) (now : Nat) : State :=
  { up with
    ctx := { Ctx.reset with cdb := padTo 16 [op], cmdLen := 512, expectedLen := 512 }
    dma := { Dma.reset with len := 512, done := done }
    now := now
    seq := { pos := .top, wait := some { pred := .dmaDone, start := 0, bound := Config.tDma, resume := r }, submit := none } }

/-- Both directions with `DMA_DONE` set, among them a WRITE(10), the tick of the time-out and the last one before it. -/
theorem witness_DmaWait_receive :
    let s := { up with ctx := { Ctx.reset with state := .awaitingData, cmdLen := 4608, actual := 4096 } }
    s.link.state = .ready ∧ s.usb.config ≠ 0 ∧ s.ctx.state = .awaitingData ∧
      min 4096 (s.ctx.cmdLen - s.ctx.actual.setWidth 64).toNat = 512 := by decide

theorem witness_DmaWait :
    (∀ r op done now, turn (waiting r op done now) (waiting r op done now)) ∧
    (waiting (.tx 512) 0x28 true 0).dma.done = true ∧ (waiting (.rx 512) 0x2A true 0).dma.done = true ∧
    decodeCdb (waiting (.rx 512) 0x2A true 0).ctx.cdb = .write10 0 0 ∧
    (waiting (.tx 512) 0x28 false 0).dma.done = false ∧
    Config.tDma ≤ (waiting (.tx 512) 0x28 false Config.tDma).now - 0 ∧
    (waiting (.tx 512) 0x28 false Config.tDmaPred).now - 0 < Config.tDma := by
  refine ⟨fun _ _ _ _ => .inl ⟨rfl, rfl⟩, rfl, rfl, by decide, rfl, Nat.le_refl _, ?_⟩
  change Config.tDmaPred - 0 < Config.tDmaPred + 1
  omega

/-- A chunk of the first config block, of the first byte of part 1 and of the least part 2. -/
theorem witness_FlashChunk :
    up.flashOk = true ∧ ({ up with flashOk := false } : State).flashOk = false ∧
    decodeCdb (padTo 16 [0xE1, 0x50, 0]) = .vendorE1_50 0 ∧ 128 * (0 : BitVec 8).toNat + 128 ≤ Config.flashSize ∧
    decodeCdb (padTo 16 [0xE3, 0x50, 0, 0, 1, 0]) = .vendorE3_50 0x100 ∧
    0x80 + up.fw.cursor1.toNat + 256 ≤ Config.flashSize ∧
    decodeCdb (padTo 16 [0xE3, 0xD0, 0, 0, 0, 1]) = .vendorE3_D0 1 ∧ 0x10000 + up.fw.cursor2.toNat + 1 ≤ Config.flashSize := by
  have h1 : up.fw.cursor1.toNat = 0 := rfl
  have h2 : up.fw.cursor2.toNat = 0 := rfl
  rw [h1, h2]
  unfold Config.flashSize Config.fwPart2Base
  refine ⟨rfl, rfl, by decide, ?_, by decide, by omega, by decide, by omega⟩
  change 128 * 0 + 128 ≤ _
  omega

theorem witness_SubmitIssues :
    encode (.nvmeFlush 0 1) = .sqe .io (sqeBytes 0 0 1 0 0 0 0) ∧ inFlight.nvme.slots.length = Config.kMax ∧
    freeSlot inFlight = some 2 := ⟨rfl, rfl, rfl⟩

/-- Every slot in use. -/
def full (o : Owner) : State :=
  { up with
    nvme := { up.nvme with slots := List.replicate 8 { Slot.free with inUse := true } }
    seq := { pos := .top, wait := none, submit := some { flushReq with owner := o } } }

theorem witness_SubmitNoSlot :
    freeSlot (full .ctx) = none ∧ (full .ctx).seq.submit = some { flushReq with owner := .ctx } ∧
    freeSlot (full .init) = none ∧ (full .init).seq.submit = some { flushReq with owner := .init } := by decide

/-- The first slot of the admin completion queue holds an entry for id 5 with a clear phase bit. -/
def atPoll (phase : Bool) (cid : Byte) : State :=
  let p := { inFlight.nvme.adminQ with cqHead := ⟨0, Config.queueDepth_pos⟩, cqPhase := phase }
  { inFlight with
    nvme := { inFlight.nvme with adminQ := p }
    mem := ((Memory.mk []).write (.cq .admin) 12 cid).write (.cq .admin) 14 0x02 }

/-- The phase bit is the expected one, with a slot of that id and without; and it is not. -/
theorem witness_PollConsumes :
    ((atPoll false 5).byte (.cq .admin) (16 * ((atPoll false 5).nvme.queue .admin).cqHead.val + 14)).getLsbD 0 =
      ((atPoll false 5).nvme.queue .admin).cqPhase ∧
    ((atPoll false 5).nvme.slot 1).inUse = true ∧ ((atPoll false 5).nvme.slot 1).q = .admin ∧
    ((atPoll false 5).nvme.slot 1).cid = (atPoll false 5).byte (.cq .admin) 13 ++ (atPoll false 5).byte (.cq .admin) 12 ∧
    (∀ j, j < 8 → ((atPoll false 9).nvme.slot j).cid ≠
      (atPoll false 9).byte (.cq .admin) 13 ++ (atPoll false 9).byte (.cq .admin) 12) ∧
    ((atPoll true 5).byte (.cq .admin) (16 * ((atPoll true 5).nvme.queue .admin).cqHead.val + 14)).getLsbD 0 ≠
      ((atPoll true 5).nvme.queue .admin).cqPhase := by
  decide

/-- `inFlight` with the context's command `op` and the bring-up's step `st`. -/
def settling (op : Byte) (st : InitStep) : State :=
  { inFlight with
    ctx := { Ctx.reset with cdb := padTo 16 [op], blocksLeft := 1, cmdLen := 512, expectedLen := 512, direction := .dirIn }
    nvme := { inFlight.nvme with
      init := st
      slots := { Slot.free with inUse := true, q := .io, cid := 4, owner := .ctx, sqe := List.replicate 64 0 } ::
        { Slot.free with inUse := true, cid := 5, owner := .init, retries := Config.nvmeRetryMax,
                         sqe := List.replicate 64 0 } :: List.replicate 6 Slot.free } }

/-- A slot of the context (retries left where there are any), one of the bring-up (none left) and an orphan; status 0, a
retryable and a final one; each command and each step of the bring-up. -/
theorem witness_CompletionSettles :
    ((0 : BitVec 15) = 0 ∧ (0x2281 : BitVec 15) ≠ 0 ∧ (0x2281 : BitVec 15).getLsbD 14 = false ∧
      (0x6281 : BitVec 15) ≠ 0 ∧ (0x6281 : BitVec 15).getLsbD 14 = true) ∧
    (∀ op st, 7 < (settling op st).nvme.slots.length ∧ (settling op st).nvme.slots.length = Config.kMax ∧
      ((settling op st).nvme.slot 0).owner = .ctx ∧ ((settling op st).nvme.slot 1).owner = .init ∧
      ((settling op st).nvme.slot 7).owner = .none ∧ ((settling op st).nvme.slot 0).sqe.length = 64 ∧
      ((settling op st).nvme.slot 0).retries = 0 ∧ (settling op st).nvme.init = st ∧
      Config.nvmeRetryMax ≤ ((settling op st).nvme.slot 1).retries) ∧
    (∀ op st, 0 < Config.nvmeRetryMax → ((settling op st).nvme.slot 0).retries < Config.nvmeRetryMax) ∧
    ∀ op, op = 0x28 ∨ op = 0x2A ∨ op = 0x35 ∨ op = 0xE6 → byteAt (settling op .idle).ctx.cdb 0 = op := by
  refine ⟨by decide, fun op st => ⟨?_, rfl, rfl, rfl, rfl, rfl, rfl, rfl, Nat.le_refl _⟩, fun _ _ h => h, fun op _ => rfl⟩
  exact (by decide : 7 < 8)

/-- A slot at its time-out, one a tick younger, and a free one. -/
theorem witness_CommandTimeout :
    (∃ s : State, (s.nvme.slot 0).inUse = true ∧ Config.tNvmeCmd ≤ s.now - (s.nvme.slot 0).issuedAt) ∧
    (∃ s : State, (s.nvme.slot 0).inUse = true ∧ s.now - (s.nvme.slot 0).issuedAt < Config.tNvmeCmd) ∧
    (inFlight.nvme.slot 7).inUse = false := by
  refine ⟨⟨{ inFlight with now := Config.tNvmeCmd }, rfl, Nat.le_refl _⟩, ⟨{ inFlight with now := Config.tNvmeCmdPred }, rfl, ?_⟩, rfl⟩
  change Config.tNvmeCmdPred - 0 < Config.tNvmeCmdPred + 1
  omega

end Sys2Proof.Tests
end

section
/-! What a step does to the record of the NVMe bring-up (rules R44, R395), and the invariant on the cached block size and
the namespace that follows (O11). An operation either keeps the record, which is an equation (`f_nvme`, `f_bringUp`), or
makes one move of the bring-up (`bringUpStep_f`); both are said once an operation. -/

namespace Sys2Proof.Machine

/-! ## The record of the bring-up and its moves -/

/-- The fields of the engine that only the bring-up writes: its step and what Identify Namespace told (rules R44, R395). -/
structure BringUp where
  init : InitStep
  identified : Bool
  nsSize : BitVec 64
  blockSize : BitVec 32

/-- The bring-up's record in the engine. -/
def Nvme.bringUp (n : Nvme) : BringUp :=
  { init := n.init, identified := n.identified, nsSize := n.nsSize, blockSize := n.blockSize }

/-- The steps after Identify Namespace succeeded (rule R395). -/
def InitStep.pastIdentify : InitStep → Bool
  | .createCq | .createSq | .done => true
  | .idle | .idCtrl | .idNs | .failed => false

/-- What may happen to the bring-up's record: nothing, the engine's reset, a step that is not past Identify Namespace (`fail`
among them), or one of the three steps forward (rules R64, R395). -/
inductive BringUpMove (a : BringUp) : BringUp → Prop
  | kept : BringUpMove a a
  | reset : BringUpMove a Nvme.reset.bringUp
  | before (st : InitStep) (h : st.pastIdentify = false) : BringUpMove a { a with init := st }
  | namespaceRead (size : BitVec 64) (block : BitVec 32) (hsize : size ≠ 0) (hblock : block = 512 ∨ block = 4096) :
      BringUpMove a { a with init := .createCq, nsSize := size, blockSize := block }
  | cqCreated (h : a.init = .createCq) : BringUpMove a { a with init := .createSq }
  | sqCreated (h : a.init = .createSq) : BringUpMove a { a with init := .done, identified := true }

/-- `BlockInv` on the bring-up's record. -/
def BringUpOk (a : BringUp) : Prop :=
  (a.identified = true ∨ a.init.pastIdentify = true) → (a.blockSize = 512 ∨ a.blockSize = 4096) ∧ a.nsSize ≠ 0

theorem pastIdentify_iff (st : InitStep) :
    st.pastIdentify = true ↔ st = .createCq ∨ st = .createSq ∨ st = .done := by
  cases st <;> decide

theorem blockInv_iff (s : State) : BlockInv s ↔ BringUpOk s.nvme.bringUp := by
  simp only [BlockInv, BringUpOk, Nvme.bringUp, pastIdentify_iff]

/-- The block size and the namespace are written only together, and only with values that pass the check of rule R395; no
other move gets past Identify Namespace, or to `identified`, from before it. -/
theorem BringUpMove.keeps_ok {a b : BringUp} (m : BringUpMove a b) (h : BringUpOk a) : BringUpOk b := by
  cases m with
  | kept => exact h
  | reset => rintro (hid | hpast) <;> contradiction
  | before st hst =>
    rintro (hid | hpast)
    · exact h (.inl hid)
    · exact absurd hpast (by simp [hst])
  | namespaceRead size block hsize hblock => exact fun _ => ⟨hblock, hsize⟩
  | cqCreated hcq => exact fun _ => h (.inr (by rw [hcq]; rfl))
  | sqCreated hsq => exact fun _ => h (.inr (by rw [hsq]; rfl))

/-! ## Operations that keep the record -/

@[simp] theorem nvme_ite (c : Prop) [Decidable c] (s t : State) :
    (if c then s else t).nvme = if c then s.nvme else t.nvme := apply_ite State.nvme c s t

@[simp] theorem bringUp_ite (c : Prop) [Decidable c] (m n : Nvme) :
    (if c then m else n).bringUp = if c then m.bringUp else n.bringUp := apply_ite Nvme.bringUp c m n

@[simp] theorem bringUp_slots (n : Nvme) (l : List Slot) : { n with slots := l }.bringUp = n.bringUp := rfl

@[simp] theorem bringUp_setQueue (n : Nvme) (q : QueueId) (p : QueuePair) : (n.setQueue q p).bringUp = n.bringUp := by
  cases q <;> rfl

@[simp] theorem issue_bringUp (i : Nat) (s : State) : (issue i s).nvme.bringUp = s.nvme.bringUp :=
  bringUp_setQueue s.nvme _ _

@[simp] theorem release_bringUp (i : Nat) (s : State) : (release i s).nvme.bringUp = s.nvme.bringUp := by
  simp [release]
@[simp] theorem dropContext_bringUp (s : State) : (dropContext s).nvme.bringUp = s.nvme.bringUp := rfl
@[simp] theorem clearUsb_bringUp (s : State) : (clearUsb s).nvme.bringUp = s.nvme.bringUp := rfl
@[simp] theorem armCbwIf_nvme (c : Bool) (s : State) : (armCbwIf c s).nvme = s.nvme := by
  cases c <;> rfl
@[simp] theorem botReset_bringUp (s : State) : (botReset s).nvme.bringUp = s.nvme.bringUp := by
  simp [botReset]
@[simp] theorem failInFlight_bringUp (s : State) : (failInFlight s).nvme.bringUp = s.nvme.bringUp := by
  obtain ⟨-, h⟩ | ⟨-, h⟩ := failInFlight_cases s <;> simp [h]
@[simp] theorem raiseFault_bringUp (c : FaultCode) (s : State) : (raiseFault c s).nvme.bringUp = s.nvme.bringUp := by
  obtain ⟨-, h⟩ | ⟨-, h⟩ := raiseFault_cases c s <;> simp [h]
@[simp] theorem cancel_bringUp (s : State) : (cancel s).nvme.bringUp = s.nvme.bringUp := by
  simp [cancel, cancelCtx]
@[simp] theorem callSubmit_nvme (p : Packet) (o : Owner) (s : State) : (callSubmit p o s).nvme = s.nvme := by
  cases p <;> rfl

/-! ## Chunks of a data phase -/

@[simp] theorem sendBuf_nvme (s : State) : (sendBuf s).nvme = s.nvme := by
  simp [sendBuf]
@[simp] theorem readNextChunk_nvme (s : State) : (readNextChunk s).nvme = s.nvme := by
  simp [readNextChunk]
@[simp] theorem writeNextChunk_nvme (s : State) : (writeNextChunk s).nvme = s.nvme := by
  simp [writeNextChunk]
@[simp] theorem nextOutChunk_nvme (s : State) : (nextOutChunk s).nvme = s.nvme := by
  simp [nextOutChunk]

theorem flashChunk_bringUp {a n : Nat} {after : State → State} {s t : State}
    (h : flashChunk a n after s = .next t) (hafter : ∀ u, (after u).nvme = u.nvme) :
    t.nvme.bringUp = s.nvme.bringUp := by
  unfold flashChunk at h
  split at h
  · cases h
  · split at h <;> cases h <;> simp [hafter]

theorem chunkExec_bringUp {n : Nat} {s t : State} (h : chunkExec n s = .next t) : t.nvme.bringUp = s.nvme.bringUp := by
  unfold chunkExec streamChunk at h
  split at h
  · cases h; simp [writeChunk]
  · exact flashChunk_bringUp h fun _ => rfl
  · exact flashChunk_bringUp h fun _ => rfl
  · exact flashChunk_bringUp h fun _ => rfl
  · cases h; rfl

/-! ## The other agents and the register bus -/

@[simp] theorem hwChange_nvme (a : BitVec 16) (v : Byte) (s : State) : (hwChange a v s).nvme = s.nvme := by
  unfold hwChange
  split <;> rfl

@[simp] theorem dmaStep_nvme (k : Nat) (s : State) : (dmaStep k s).nvme = s.nvme := by
  unfold dmaStep
  cases s.dma.dir <;> simp [dmaCheckDone]

theorem whenConnected_nvme {f : State → State} (h : ∀ s, (f s).nvme = s.nvme) (s : State) :
    (whenConnected f s).nvme = s.nvme := by
  simp [whenConnected, h]
@[simp] theorem raiseCtlData_nvme (s : State) : (raiseCtlData s).nvme = s.nvme := by
  simp [raiseCtlData]
@[simp] theorem raiseCtlStatus_nvme (s : State) : (raiseCtlStatus s).nvme = s.nvme := by
  simp [raiseCtlStatus]
@[simp] theorem takeSetup_nvme (b : Bytes) (s : State) : (takeSetup b s).nvme = s.nvme := by
  simp [takeSetup]
@[simp] theorem offerBulkOut_nvme (b : Bytes) (s : State) : (offerBulkOut b s).nvme = s.nvme := by
  unfold offerBulkOut
  cases s.usb.outArmed <;> simp
@[simp] theorem takeBulkIn_nvme (n : Nat) (s : State) : (takeBulkIn n s).nvme = s.nvme := by
  simp [takeBulkIn]

/-- Of all the agents' steps only the power-on reaches the engine. -/
theorem agentStep_cases (i : Input) (s : State) : agentStep i s = powerOn s ∨ (agentStep i s).nvme = s.nvme := by
  cases i with
  | powerOn => exact .inl rfl
  | setup b => exact .inr (takeSetup_nvme b s)
  | ctlData => exact .inr (whenConnected_nvme raiseCtlData_nvme s)
  | ctlStatus => exact .inr (whenConnected_nvme raiseCtlStatus_nvme s)
  | busReset | suspend | resume => right; simp [agentStep, whenConnected]
  | bulkOut b => exact .inr (offerBulkOut_nvme b s)
  | bulkIn n => exact .inr (takeBulkIn_nvme n s)
  | dma k => exact .inr (dmaStep_nvme k s)
  | regChange a v => exact .inr (hwChange_nvme a v s)
  | _ => exact .inr rfl

@[simp] theorem setHaltIn_nvme (h : Bool) (s : State) : (setHaltIn h s).nvme = s.nvme := by
  simp [setHaltIn]
@[simp] theorem setHaltOut_nvme (h : Bool) (s : State) : (setHaltOut h s).nvme = s.nvme := by
  simp [setHaltOut]

/-- A bus write resets the block (rule R471), or leaves the bring-up alone: the doorbells are the queues' (rule R26). -/
theorem roleWrite_cases (v : Byte) (s : State) (r : Role) :
    roleWrite v s r = powerOn s ∨ (roleWrite v s r).nvme.bringUp = s.nvme.bringUp := by
  cases r with
  | cpuReset =>
    by_cases hv : v = Config.resetMagic
    · exact .inl (if_pos hv)
    · exact .inr (by simp [roleWrite, hv])
  | usbEpStall | dmaStart => right; simp [roleWrite]
  | sqTailDb q | cqHeadDb q => exact .inr (bringUp_setQueue _ _ _)
  | _ => exact .inr rfl

theorem regWrite_cases (a : BitVec 16) (v : Byte) (s : State) :
    regWrite a v s = powerOn s ∨ (regWrite a v s).nvme.bringUp = s.nvme.bringUp := by
  unfold regWrite
  split
  · exact roleWrite_cases v s _
  · exact .inr rfl
  · exact .inr rfl

@[simp] theorem regBlock_nvme (n : Nat) (a : BitVec 16) (o : Nat) (s : State) : (regBlock n a o s).nvme = s.nvme := by
  induction n generalizing a o s with
  | zero => rfl
  | succ n ih => exact ih _ _ _

/-! ## The bring-up's own operations -/

/-- From `s` to `t` the bring-up's record makes one move. -/
def BringUpStep (s t : State) : Prop := BringUpMove s.nvme.bringUp t.nvme.bringUp

theorem bringUpStep_of_eq {s t : State} (h : t.nvme.bringUp = s.nvme.bringUp) : BringUpStep s t := by
  unfold BringUpStep
  rw [h]
  exact .kept

theorem BringUpStep.after {s u t : State} (m : BringUpStep u t) (h : u.nvme.bringUp = s.nvme.bringUp) :
    BringUpStep s t := by
  unfold BringUpStep at m ⊢
  rwa [h] at m

theorem bringUpStep_powerOn (s u : State) : BringUpStep s (powerOn u) := .reset
theorem bringUpStep_recover (s u : State) : BringUpStep s (recover u) := .reset
theorem bringUpStep_initFail (s : State) : BringUpStep s (initFail s) := .before .failed rfl

theorem initStep_bringUp (st : InitStep) (cmd : Instr) (s : State) :
    (initStep st cmd s).nvme.bringUp = { s.nvme.bringUp with init := st } := by
  simp [initStep, Nvme.bringUp]

/-- The two values of LBADS that the check of rule R395 lets pass. -/
theorem blockSize_of_lbads {b : Byte} (h : b = 9 ∨ b = 12) :
    (1 : BitVec 32) <<< b.toNat = 512 ∨ (1 : BitVec 32) <<< b.toNat = 4096 := by
  obtain rfl | rfl := h
  · exact .inl rfl
  · exact .inr rfl

theorem bringUpStep_initNamespace (s : State) : BringUpStep s (initNamespace s) := by
  unfold initNamespace
  split
  case isTrue => exact bringUpStep_initFail s
  case isFalse hread =>
    rw [not_or] at hread
    obtain ⟨hsize, hlbads⟩ := hread
    unfold BringUpStep
    rw [initStep_bringUp]
    exact .namespaceRead (identNsze s) _ hsize (blockSize_of_lbads (by tauto))

theorem bringUpStep_initStep {st : InitStep} (cmd : Instr) {s : State}
    (m : BringUpMove s.nvme.bringUp { s.nvme.bringUp with init := st }) : BringUpStep s (initStep st cmd s) := by
  unfold BringUpStep
  rwa [initStep_bringUp]

theorem bringUpStep_initStart (s : State) : BringUpStep s (initStart s) :=
  bringUpStep_initStep _ (.before .idCtrl rfl)

/-- Each step forward, by the step the bring-up is at. -/
theorem bringUpStep_initOk (s : State) : BringUpStep s (initOk s) := by
  unfold initOk
  cases hinit : s.nvme.init with
  | idCtrl => exact bringUpStep_initStep _ (.before .idNs rfl)
  | idNs => exact bringUpStep_initNamespace s
  | createCq => exact bringUpStep_initStep _ (.cqCreated hinit)
  | createSq => exact .sqCreated hinit
  | idle | done | failed => exact .kept

/-! ## Completions, time-outs and submissions -/

@[simp] theorem deliverCtx_bringUp (st : BitVec 15) (s : State) : (deliverCtx st s).nvme.bringUp = s.nvme.bringUp := by
  simp [deliverCtx]

theorem bringUpStep_deliver (i : Nat) (st : BitVec 15) (s : State) : BringUpStep s (deliver i st s) := by
  unfold deliver
  cases (s.nvme.slot i).owner with
  | ctx => exact bringUpStep_of_eq (by simp)
  | init =>
    by_cases hst : st = 0
    · simp only [hst, if_true]
      exact (bringUpStep_initOk (release i s)).after (by simp)
    · simp only [hst, if_false]
      exact (bringUpStep_initFail (release i s)).after (by simp)
  | none => exact bringUpStep_of_eq (by simp)

theorem bringUpStep_settle (i : Nat) (st : BitVec 15) (s : State) : BringUpStep s (settle i st s) := by
  unfold settle
  simp only
  split
  · exact bringUpStep_deliver i st s
  · split
    · exact bringUpStep_of_eq (by simp)
    · split
      · exact bringUpStep_of_eq (by simp)
      · exact bringUpStep_deliver i st s
      · exact bringUpStep_deliver i st s

theorem bringUpStep_complete (q : QueueId) (e : Bytes) (s : State) : BringUpStep s (complete q e s) := by
  unfold complete
  split
  · exact bringUpStep_of_eq (by simp)
  · exact (bringUpStep_settle _ _ _).after (by simp)

theorem bringUpStep_pollOne (q : QueueId) (s : State) : BringUpStep s (pollOne q s) :=
  (bringUpStep_complete q _ _).after (by simp)

theorem bringUpStep_slotTimeout (i : Nat) (s : State) : BringUpStep s (slotTimeout i s) := by
  unfold slotTimeout
  cases (s.nvme.slot i).owner with
  | ctx | none => exact bringUpStep_of_eq (by simp)
  | init => exact (bringUpStep_initFail (release i s)).after (by simp)

theorem bringUpStep_noSlot (o : Owner) (s : State) : BringUpStep s (noSlot s o) := by
  cases o with
  | ctx | none => exact bringUpStep_of_eq (by simp [noSlot])
  | init => exact bringUpStep_initFail s

theorem bringUpStep_submit (p : Packet) (s : State) : BringUpStep s (submit p s) := by
  cases p with
  | sqe q e =>
    obtain ⟨-, h⟩ | ⟨i, -, h⟩ := submit_cases q e s
    · rw [h]
      exact (bringUpStep_noSlot _ _).after rfl
    · rw [h]
      exact bringUpStep_of_eq (by simp)
  | cdb | setup => exact bringUpStep_of_eq rfl

/-! ## The instructions -/

theorem bringUpStep_runCdb {body : State → State} (hbody : ∀ u, BringUpStep u (body u)) (dir : Dir) (len : BitVec 64)
    (s : State) : BringUpStep s (runCdb dir len body s) := by
  obtain h | h := runCdb_cases dir len body s <;> rw [h]
  · exact bringUpStep_of_eq (by simp)
  · exact (hbody _).after rfl

@[simp] theorem runCdb_bringUp {body : State → State} (hbody : ∀ u, (body u).nvme.bringUp = u.nvme.bringUp)
    (dir : Dir) (len : BitVec 64) (s : State) : (runCdb dir len body s).nvme.bringUp = s.nvme.bringUp := by
  obtain h | h := runCdb_cases dir len body s <;> rw [h]
  · simp
  · rw [hbody]

@[simp] theorem runMedium_bringUp {body : State → State} (hbody : ∀ u, (body u).nvme = u.nvme) (dir : Dir)
    (lba : BitVec 32) (blocks : BitVec 16) (s : State) :
    (runMedium dir lba blocks body s).nvme.bringUp = s.nvme.bringUp := by
  simp [runMedium, hbody]

@[simp] theorem sendFlash_bringUp (a n : Nat) (s : State) : (sendFlash a n s).nvme.bringUp = s.nvme.bringUp := by
  simp [sendFlash]
@[simp] theorem runStream_bringUp (p : FwPart) (length : BitVec 32) (s : State) :
    (runStream p length s).nvme.bringUp = s.nvme.bringUp := by
  simp [runStream]
@[simp] theorem runAdmin_bringUp (opc : Byte) (rest : BitVec 112) (cmd : Instr) (s : State) :
    (runAdmin opc rest cmd s).nvme.bringUp = s.nvme.bringUp := by
  simp [runAdmin]
@[simp] theorem finishThen_nvme (a : AfterCsw) (s : State) : (finishThen a s).nvme = s.nvme := by
  simp [finishThen]
@[simp] theorem ctlReply_nvme (reply : Bytes) (wLength : BitVec 16) (s : State) :
    (ctlReply reply wLength s).nvme = s.nvme := by
  simp [ctlReply]
@[simp] theorem setConfig_nvme (c : BitVec 8) (s : State) : (setConfig c s).nvme = s.nvme := by
  simp [setConfig]

theorem clearHalt_nvme {wIndex : BitVec 16} {s t : State} (h : clearHalt wIndex s = some t) : t.nvme = s.nvme := by
  unfold clearHalt at h
  split_ifs at h <;> cases h <;> simp

theorem bringUpStep_registerWrite (a : BitVec 16) (v : Byte) (s : State) :
    BringUpStep s (if writeResets a v then powerOn s else finish 0 (regWrite a v s)) := by
  split
  · exact bringUpStep_powerOn s s
  · obtain h | h := regWrite_cases a v s
    · rw [h]
      exact BringUpMove.reset
    · exact bringUpStep_of_eq (by simp [h])

/-- A submission entry may find no slot for the bring-up, and a register write may reset the block; every other instruction
keeps the bring-up's record. -/
theorem bringUpStep_exec {i : Instr} {s t : State} (h : exec i s = .next t) : BringUpStep s t := by
  cases i with
  | identify | createIoCq | createIoSq | getLogPage | nvmeFlush | nvmeWrite | nvmeRead =>
    cases h
    exact bringUpStep_submit _ s
  | vendorE5 value addr =>
    cases h
    split
    · exact bringUpStep_of_eq (by simp)
    · exact bringUpStep_runCdb (bringUpStep_registerWrite _ value) _ _ s
  | clearFeature wValue wIndex wLength =>
    cases h
    split
    · exact bringUpStep_of_eq (by simp)
    · split
      · rename_i hclear
        exact bringUpStep_of_eq (by simp [clearHalt_nvme hclear])
      · exact bringUpStep_of_eq (by simp)
  | getDescriptor type index wIndex wLength =>
    cases h
    split <;> exact bringUpStep_of_eq (by simp)
  | _ =>
    cases h
    exact bringUpStep_of_eq (by simp)

theorem bringUpStep_runPacket {r : Refusal} {p : Packet} {s t : State} (h : runPacket r p s = .next t) :
    BringUpStep s t := by
  unfold runPacket at h
  split at h
  · exact bringUpStep_exec h
  · cases h

/-! ## The event handlers -/

@[simp] theorem busReset_bringUp (s : State) : (busReset s).nvme.bringUp = s.nvme.bringUp := by
  unfold busReset
  simp only
  split <;> simp

theorem bringUpStep_ctlSetupPhase {s t : State} (h : ctlSetupPhase s = .next t) : BringUpStep s t := by
  unfold ctlSetupPhase at h
  split at h
  · exact bringUpStep_runPacket h
  · cases h; exact bringUpStep_of_eq rfl
  · cases h; exact bringUpStep_of_eq (by simp)

@[simp] theorem ctlDataPhase_bringUp (s : State) : (ctlDataPhase s).nvme.bringUp = s.nvme.bringUp := by
  unfold ctlDataPhase
  cases expectUsb s.link.state <;> simp

@[simp] theorem adoptAddress_nvme (s : State) : (adoptAddress s).nvme = s.nvme := by
  unfold adoptAddress
  cases s.ctl.pendingAddress <;> rfl

@[simp] theorem ctlFinish_bringUp (s : State) : (ctlFinish s).nvme.bringUp = s.nvme.bringUp := by
  simp [ctlFinish]

@[simp] theorem ctlStatusPhase_bringUp (s : State) : (ctlStatusPhase s).nvme.bringUp = s.nvme.bringUp := by
  unfold ctlStatusPhase
  cases expectUsb s.link.state <;> simp

theorem bringUpStep_receiveCbw {s t : State} (h : receiveCbw s = .next t) : BringUpStep s t := by
  unfold receiveCbw at h
  simp only at h
  split at h
  · exact (bringUpStep_runPacket h).after (by simp)
  · cases h
    exact bringUpStep_of_eq (by simp)

theorem bringUpStep_bulkOutHandler {s t : State} (h : bulkOutHandler s = .next t) : BringUpStep s t := by
  unfold bulkOutHandler at h
  split at h
  · split_ifs at h
    · exact bringUpStep_receiveCbw h
    · cases h; exact bringUpStep_of_eq rfl
    · cases h; exact bringUpStep_of_eq (by simp)
  · cases h; exact bringUpStep_of_eq rfl
  · cases h; exact bringUpStep_of_eq (by simp)

theorem bringUpStep_cswAck (s : State) : BringUpStep s (cswAck s) := by
  unfold cswAck
  simp only
  cases s.ctx.afterCsw with
  | hardReset | commitReset => exact bringUpStep_powerOn s _
  | nothing | haltBoth | reenumerate => exact bringUpStep_of_eq (by simp)

@[simp] theorem dataAck_nvme (s : State) : (dataAck s).nvme = s.nvme := by
  simp [dataAck]

theorem bringUpStep_bulkInHandler (s : State) : BringUpStep s (bulkInHandler s) := by
  unfold bulkInHandler
  split
  · split_ifs
    · exact bringUpStep_cswAck s
    · exact bringUpStep_of_eq (by simp)
    · exact bringUpStep_of_eq (by simp)
  · split_ifs
    · exact bringUpStep_cswAck s
    · exact bringUpStep_of_eq rfl
  · exact bringUpStep_of_eq (by simp)

theorem bringUpStep_epHandler {i : Nat} {s t : State} (h : epHandler i s = .next t) : BringUpStep s t := by
  unfold epHandler at h
  split_ifs at h
  · cases h; exact bringUpStep_bulkInHandler s
  · exact bringUpStep_bulkOutHandler h
  · cases h; exact bringUpStep_of_eq (by simp)

theorem resumeAt_bringUp {r : Resume} {s t : State} (h : resumeAt r s = .next t) : t.nvme.bringUp = s.nvme.bringUp := by
  cases r with
  | tx n => cases h; simp
  | rx n => exact (chunkExec_bringUp h).trans rfl

theorem waitStep_bringUp {w : Wait} {s t : State} (h : waitStep w s = .next t) : t.nvme.bringUp = s.nvme.bringUp := by
  unfold waitStep at h
  simp only at h
  split_ifs at h
  · exact (resumeAt_bringUp h).trans rfl
  · cases h; simp
  · cases h; rfl

@[simp] theorem linkChange_bringUp (s : State) : (linkChange s).nvme.bringUp = s.nvme.bringUp := by
  simp [linkChange]
@[simp] theorem hwError_bringUp (s : State) : (hwError s).nvme.bringUp = s.nvme.bringUp := by
  unfold hwError
  simp only
  split <;> simp
@[simp] theorem cqeEvent_bringUp (s : State) : (cqeEvent s).nvme.bringUp = s.nvme.bringUp := by
  unfold cqeEvent
  simp only
  cases expectCqe s.link.state <;> simp
@[simp] theorem usbSuspend_nvme (s : State) : (usbSuspend s).nvme = s.nvme := by
  simp [usbSuspend]
@[simp] theorem usbResume_nvme (s : State) : (usbResume s).nvme = s.nvme := by
  simp [usbResume]

/-! ## The link tick -/

@[simp] theorem tickPhyInit_bringUp (s : State) : (tickPhyInit s).nvme.bringUp = s.nvme.bringUp := by
  simp [tickPhyInit, phyTimeout]
@[simp] theorem tickLinkTrain_bringUp (s : State) : (tickLinkTrain s).nvme.bringUp = s.nvme.bringUp := by
  simp [tickLinkTrain]
@[simp] theorem tickResume_bringUp (s : State) : (tickResume s).nvme.bringUp = s.nvme.bringUp := by
  simp [tickResume]

theorem bringUpStep_tickTunnelCfg (s : State) : BringUpStep s (tickTunnelCfg s) := by
  unfold tickTunnelCfg
  cases s.nvme.init with
  | idle => exact bringUpStep_initStart s
  | done | failed => exact bringUpStep_of_eq (by simp)
  | idCtrl | idNs | createCq | createSq => exact bringUpStep_of_eq rfl

theorem bringUpStep_tickFault (s : State) : BringUpStep s (tickFault s) := by
  unfold tickFault
  split
  · exact bringUpStep_of_eq rfl
  · exact bringUpStep_recover s s

theorem bringUpStep_linkTick (s : State) : BringUpStep s (linkTick s) := by
  unfold linkTick
  cases s.link.state with
  | tunnelCfg => exact bringUpStep_tickTunnelCfg s
  | fault => exact bringUpStep_tickFault s
  | recovery => exact bringUpStep_recover s s
  | off | phyInit | linkTrain | ready | suspend | resume => exact bringUpStep_of_eq (by simp)

/-! ## The loop iteration and the step -/

theorem bringUpStep_pollTurn (q : QueueId) (fromTick : Bool) (s : State) : BringUpStep s (pollTurn q fromTick s) := by
  unfold pollTurn
  split
  · exact bringUpStep_pollOne q s
  · cases q <;> exact bringUpStep_of_eq (by simp)

theorem bringUpStep_timeoutTurn (i : Nat) (s : State) : BringUpStep s (timeoutTurn i s) := by
  unfold timeoutTurn
  simp only
  split_ifs
  · exact bringUpStep_of_eq (by simp)
  · exact (bringUpStep_slotTimeout i _).after (by simp)
  · exact bringUpStep_of_eq (by simp)

theorem bringUpStep_posStep {s t : State} (h : posStep s = .next t) : BringUpStep s t := by
  cases hpos : s.seq.pos with
  | ctlSetup =>
    simp only [posStep, hpos] at h
    split at h
    · exact (bringUpStep_ctlSetupPhase h).after (by simp)
    · cases h; exact bringUpStep_of_eq (by simp)
  | epServe m =>
    simp only [posStep, hpos] at h
    split at h
    · cases h; exact bringUpStep_of_eq (by simp)
    · exact (bringUpStep_epHandler h).after (by simp)
  | timeouts i =>
    simp only [posStep, hpos] at h
    cases h
    exact bringUpStep_timeoutTurn i s
  | poll q fromTick =>
    simp only [posStep, hpos] at h
    cases h
    exact bringUpStep_pollTurn q fromTick s
  | linkTick =>
    simp only [posStep, hpos] at h
    cases h
    exact (bringUpStep_linkTick _).after (by simp)
  | _ =>
    simp only [posStep, hpos] at h
    cases h
    exact bringUpStep_of_eq (by simp [unlessFlag])

theorem bringUpStep_seqStep {s t : State} (h : seqStep s = .next t) : BringUpStep s t := by
  obtain ⟨w, -, hw⟩ | ⟨-, r, i, -, -, hi⟩ | ⟨-, -, hp⟩ := seqStep_cases h
  · exact bringUpStep_of_eq (waitStep_bringUp hw)
  · exact bringUpStep_exec hi
  · exact bringUpStep_posStep hp

/-- A step of the machine makes one move of the bring-up. -/
theorem bringUpStep_step {s t : State} (h : step s = .next t) : BringUpStep s t := by
  obtain ⟨u, hu, hseq⟩ | ⟨i, r, -, rfl⟩ | ⟨-, rfl⟩ := step_cases h
  · obtain rfl | ⟨r, -, rfl⟩ := hu
    · exact bringUpStep_seqStep hseq
    · exact (bringUpStep_seqStep hseq).after rfl
  · obtain hreset | hkept := agentStep_cases i { s with env := r }
    · rw [hreset]
      exact bringUpStep_powerOn s _
    · exact bringUpStep_of_eq (by rw [hkept])
  · exact bringUpStep_of_eq (by simp)

/-- Settles O11: every step is one move of the bring-up's record, and each move keeps the invariant. -/
theorem blockSizeKept : Obligations.BlockSizeKept := by
  intro s t hs hstep
  rw [blockInv_iff] at hs ⊢
  exact (bringUpStep_step hstep).keeps_ok hs

end Sys2Proof.Machine
end

section
/-! The law of the register space (O42): what each class of address does with a written byte, what a write and a
read-modify-write leave unchanged (rules R22 to R29, R160 to R166). -/

namespace Sys2Proof.Machine

/-! ## The bytes of a role -/

/-- A named bit of a byte, kept alone. -/
theorem bitByte_hasBit (b : RoleBit) (v : Byte) : bitByte b (hasBit b v) = v &&& bitByte b true := by
  unfold bitByte hasBit oneHot
  generalize Config.bitPos b = i
  revert i v
  decide

/-- The unnamed bits of a byte and its named ones make up the byte (rule R166). -/
theorem merge_haltBits (v : Byte) :
    (v &&& ~~~haltMask) ||| (bitByte .haltIn (hasBit .haltIn v) ||| bitByte .haltOut (hasBit .haltOut v)) = v := by
  rw [bitByte_hasBit, bitByte_hasBit, ← BitVec.and_or_distrib_left]
  change (v &&& ~~~haltMask) ||| (v &&& haltMask) = v
  rw [← BitVec.and_or_distrib_left, BitVec.or_comm, BitVec.or_not_self, BitVec.and_allOnes]

theorem merge_dirBit (v : Byte) :
    (v &&& 0xFE) ||| boolByte ((if v.getLsbD 0 then DmaDir.tx else DmaDir.rx) == .tx) = v := by
  revert v
  decide

/-- The byte of an integer register that is written is read back (rule R20). -/
theorem wideByte_wideWrite (r : Role) (n : Nat) (v : Byte) : wideByte r (wideWrite r n v) = v := by
  unfold wideByte wideWrite
  have hpos : 0 < 256 ^ Config.wideIndex r := by positivity
  rw [Nat.mul_add_div hpos, Nat.div_eq_of_lt (Nat.mod_lt _ hpos), Nat.add_zero]
  apply BitVec.eq_of_toNat_eq
  rw [BitVec.toNat_ofNat]
  omega

/-! ## What an address selects -/

theorem regWrite_role {a : BitVec 16} {r : Role} (h : target a = .role r) (v : Byte) (s : State) :
    regWrite a v s = roleWrite v s r := by
  unfold regWrite; rw [h]
theorem regWrite_ring {a : BitVec 16} {off : Nat} (h : target a = .ring off) (v : Byte) (s : State) :
    regWrite a v s = s := by
  unfold regWrite; rw [h]
theorem regWrite_plain {a : BitVec 16} (h : target a = .plain) (v : Byte) (s : State) :
    regWrite a v s = { s with mem := plainWriteMem a v s } := by
  unfold regWrite; rw [h]
theorem regReadVal_role {a : BitVec 16} {r : Role} (h : target a = .role r) (s : State) :
    regReadVal a s = roleValue s r := by
  unfold regReadVal; rw [h]
theorem policyOf_role {a : BitVec 16} {r : Role} (h : target a = .role r) : policyOf a = Role.cls r := by
  unfold policyOf; rw [h]
theorem policyOf_ring {a : BitVec 16} {off : Nat} (h : target a = .ring off) : policyOf a = .ro := by
  unfold policyOf; rw [h]
theorem policyOf_plain {a : BitVec 16} (h : target a = .plain) : policyOf a = Config.policy a := by
  unfold policyOf; rw [h]

/-- An address of class `RW` is a role's of that class or the backing array's. -/
theorem target_of_rw {a : BitVec 16} (h : policyOf a = .rw) :
    (∃ r, target a = .role r ∧ Role.cls r = .rw) ∨ (target a = .plain ∧ Config.policy a = .rw) := by
  cases ht : target a with
  | role r => exact .inl ⟨r, rfl, policyOf_role ht ▸ h⟩
  | ring off => rw [policyOf_ring ht] at h; cases h
  | plain => exact .inr ⟨rfl, policyOf_plain ht ▸ h⟩

/-! ## The roles -/

@[simp] theorem setHaltIn_keeps (h : Bool) (s : State) :
    (setHaltIn h s).ctx = s.ctx ∧ (setHaltIn h s).mem = s.mem ∧ (setHaltIn h s).epoch = s.epoch ∧
    (setHaltIn h s).race = s.race ∧ (setHaltIn h s).spare = s.spare ∧ (setHaltIn h s).usb.haltOut = s.usb.haltOut := by
  cases h <;> exact ⟨rfl, rfl, rfl, rfl, rfl, rfl⟩

@[simp] theorem setHaltOut_keeps (h : Bool) (s : State) :
    (setHaltOut h s).ctx = s.ctx ∧ (setHaltOut h s).mem = s.mem ∧ (setHaltOut h s).epoch = s.epoch ∧
    (setHaltOut h s).race = s.race ∧ (setHaltOut h s).spare = s.spare ∧ (setHaltOut h s).usb.haltIn = s.usb.haltIn := by
  cases h <;> exact ⟨rfl, rfl, rfl, rfl, rfl, rfl⟩

@[simp] theorem setHaltIn_haltIn (h : Bool) (s : State) : (setHaltIn h s).usb.haltIn = h := by
  cases h <;> rfl
@[simp] theorem setHaltOut_haltOut (h : Bool) (s : State) : (setHaltOut h s).usb.haltOut = h := by
  cases h <;> rfl

/-- A byte written to a role of class `RW` is read back (rules R22, R166), and the write reaches no byte of a space and no
entry of the schedule. -/
theorem roleWrite_rw {r : Role} (h : Role.cls r = .rw) (v : Byte) (s : State) :
    roleValue (roleWrite v s r) r = v ∧ (roleWrite v s r).mem = s.mem ∧ (roleWrite v s r).epoch = s.epoch ∧
      (roleWrite v s r).race = s.race := by
  cases r with
  | usbEpStall => simp [roleValue, roleWrite, merge_haltBits]
  | tunByteEn | tunCtrl => exact ⟨rfl, rfl, rfl, rfl⟩
  | tunLaneMap | dmaLen | dmaPtr => exact ⟨wideByte_wideWrite _ _ v, rfl, rfl, rfl⟩
  | dmaDir => exact ⟨merge_dirBit v, rfl, rfl, rfl⟩
  | _ => cases h

/-- A write to a read-only role does nothing (rule R22). -/
theorem roleWrite_ro {r : Role} (h : Role.cls r = .ro) (v : Byte) (s : State) : roleWrite v s r = s := by
  cases r with
  | usbEpEvent | usbCtlPhase | phyStatus | tunDone | dmaDone => rfl
  | _ => cases h

/-! ## The backing array -/

/-- The byte that a write to an address of the backing array leaves there, by the address's class (rules R22, R161). -/
def plainByteAfter (a : BitVec 16) (v : Byte) (s : State) : Byte :=
  match Config.policy a with
  | .rw => v
  | .ro | .unmapped => s.byte .reg a.toNat
  | .w1c => s.byte .reg a.toNat &&& ~~~v
  | .wse | .rse => Config.wseNext a (s.byte .reg a.toNat) v

/-- A byte after a write to an address of the backing array. -/
theorem byte_regWrite_plain {a : BitVec 16} (h : target a = .plain) (v : Byte) (s : State) (sp : Space) (o : Nat) :
    (regWrite a v s).byte sp o = if Space.reg = sp ∧ a.toNat = o then plainByteAfter a v s else s.byte sp o := by
  rw [regWrite_plain h]
  unfold plainWriteMem plainByteAfter
  cases Config.policy a with
  | rw | w1c | wse | rse => exact memByte_write _ _ _ _ _ _ _
  | ro | unmapped =>
    by_cases hat : Space.reg = sp ∧ a.toNat = o
    · obtain ⟨rfl, rfl⟩ := hat
      exact (if_pos ⟨rfl, rfl⟩).symm
    · exact (if_neg hat).symm

theorem regWrite_plain_changes {a : BitVec 16} (h : target a = .plain) (v : Byte) (s : State) :
    Changes s (regWrite a v s) (fun sp o => sp = .reg ∧ o = a.toNat) := by
  intro sp o hne
  rw [byte_regWrite_plain h, if_neg fun hat => hne ⟨hat.1.symm, hat.2.symm⟩]

/-- What a read of the address returns after the write, by the address's class. -/
theorem regReadVal_regWrite_plain {a : BitVec 16} (h : target a = .plain) (v : Byte) (s : State) :
    regReadVal a (regWrite a v s) =
      if Config.policy a = .unmapped then Config.unmappedByte s.free else plainByteAfter a v s := by
  have hbyte : (regWrite a v s).byte .reg a.toNat = plainByteAfter a v s := by
    rw [byte_regWrite_plain h, if_pos ⟨rfl, rfl⟩]
  have hfree : (regWrite a v s).free = s.free := by rw [regWrite_plain h]
  unfold regReadVal
  rw [h]
  cases Config.policy a <;> simp [hbyte, hfree]

/-! ## Every address -/

/-- A byte written to an address of class `RW` is read back (rules R22, R166). -/
theorem regReadVal_regWrite_rw {a : BitVec 16} (h : policyOf a = .rw) (v : Byte) (s : State) :
    regReadVal a (regWrite a v s) = v := by
  obtain ⟨r, hr, hcls⟩ | ⟨hp, hpolicy⟩ := target_of_rw h
  · obtain ⟨hread, -⟩ := roleWrite_rw hcls v s
    rw [regWrite_role hr, regReadVal_role hr, hread]
  · rw [regReadVal_regWrite_plain hp]
    simp [plainByteAfter, hpolicy]

/-- A write to a read-only address does nothing (rules R22, R143). -/
theorem regWrite_ro {a : BitVec 16} (h : policyOf a = .ro) (v : Byte) (s : State) : regWrite a v s = s := by
  cases ht : target a with
  | role r =>
    rw [regWrite_role ht]
    exact roleWrite_ro (policyOf_role ht ▸ h) v s
  | ring off => exact regWrite_ring ht v s
  | plain =>
    have hpolicy : Config.policy a = .ro := policyOf_plain ht ▸ h
    rw [regWrite_plain ht]
    simp [plainWriteMem, hpolicy]

/-- A write to an address of class `RW` reaches no other byte of a space, and no entry of the schedule. -/
theorem regWrite_rw_frame {a : BitVec 16} (h : policyOf a = .rw) (v : Byte) (s : State) :
    Changes s (regWrite a v s) (fun sp o => sp = .reg ∧ o = a.toNat) ∧ (regWrite a v s).race = s.race := by
  obtain ⟨r, hr, hcls⟩ | ⟨hp, -⟩ := target_of_rw h
  · obtain ⟨-, hmem, hepoch, hrace⟩ := roleWrite_rw hcls v s
    rw [regWrite_role hr]
    refine ⟨fun sp o _ => ?_, hrace⟩
    unfold State.byte
    rw [hmem, hepoch]
  · exact ⟨regWrite_plain_changes hp v s, by rw [regWrite_plain hp]⟩

/-! ## The halves of a read-modify-write -/

theorem Changes.trans {s t u : State} {P : Space → Nat → Prop} (h : Changes s t P) (h' : Changes t u P) :
    Changes s u P := fun sp o hne => (h' sp o hne).trans (h sp o hne)

/-- The read of an address of class `RW` leaves every byte as it was. -/
theorem regReadState_rw {a : BitVec 16} (h : policyOf a = .rw) (s : State) :
    regReadState a s = { s with free := s.free + 1 } := by
  have hmem : regReadMem a s = s.mem := by
    unfold regReadMem
    obtain ⟨r, hr, -⟩ | ⟨hp, hpolicy⟩ := target_of_rw h
    · rw [hr]
    · rw [hp, hpolicy]
  unfold regReadState
  rw [hmem]

/-- The hardware changes a register: at most the byte at its address, and no entry of the schedule (rules R87, R163). -/
theorem hwChange_frame (a : BitVec 16) (v : Byte) (s : State) :
    Changes s (hwChange a v s) (fun sp o => sp = .reg ∧ o = a.toNat) ∧ (hwChange a v s).race = s.race := by
  unfold hwChange
  cases target a with
  | role r => cases r <;> exact ⟨fun _ _ _ => rfl, rfl⟩
  | ring off => exact ⟨fun _ _ _ => rfl, rfl⟩
  | plain =>
    refine ⟨fun sp o hne => ?_, rfl⟩
    rw [byte_hwStore, if_neg fun hat => hne ⟨hat.1.symm, hat.2.symm⟩]

theorem hwBetween_frame (a : BitVec 16) (s : State) :
    Changes s (hwBetween (hwChange a) s) (fun sp o => sp = .reg ∧ o = a.toNat) ∧
      (hwBetween (hwChange a) s).race = s.race.tail := by
  obtain h | ⟨v, h⟩ := hwBetween_cases (hwChange a) s
  · rw [h]
    exact ⟨fun _ _ _ => rfl, rfl⟩
  · rw [h]
    exact hwChange_frame a v { s with race := s.race.tail }

/-- Whatever the hardware does between the halves, the write decides what is read afterwards (rules R162, R485). -/
theorem regReadVal_regRmw_rw {a : BitVec 16} (h : policyOf a = .rw) (mask set : Byte) (s : State) :
    regReadVal a (regRmw a mask set s) = (regReadVal a s &&& ~~~mask) ||| (set &&& mask) :=
  regReadVal_regWrite_rw h _ _

theorem regRmw_rw_frame {a : BitVec 16} (h : policyOf a = .rw) (mask set : Byte) (s : State) :
    Changes s (regRmw a mask set s) (fun sp o => sp = .reg ∧ o = a.toNat) ∧ (regRmw a mask set s).race = s.race.tail := by
  unfold regRmw
  rw [regReadState_rw h]
  obtain ⟨hbetween, hused⟩ := hwBetween_frame a { s with free := s.free + 1 }
  obtain ⟨hwrite, hkept⟩ := regWrite_rw_frame h (rmwByte (regReadVal a s) mask set)
    (hwBetween (hwChange a) { s with free := s.free + 1 })
  exact ⟨Changes.trans hbetween hwrite, hkept.trans hused⟩

/-- Settles O42, clause by clause: the roles, the backing array, and the read-modify-write. -/
theorem registerLaw : Obligations.RegisterLaw := by
  refine ⟨fun s a v h => regReadVal_regWrite_rw h v s, fun s a v h => regWrite_ro h v s,
    fun r => ⟨target_addr r, policyOf_addr r⟩, fun s a v h => ⟨regWrite_plain_changes h v s, ?_, ?_⟩, fun s v => ?_,
    fun s a mask set h => ⟨regReadVal_regRmw_rw h mask set s, regRmw_rw_frame h mask set s⟩⟩
  · rw [regWrite_plain h]
  · rw [regReadVal_regWrite_plain h]
    unfold plainByteAfter
    cases Config.policy a <;> rfl
  · simp only [regWrite_role (target_addr _)]
    exact ⟨rfl, by simp [roleWrite, hasBit], by simp [roleWrite, hasBit], rfl⟩

end Sys2Proof.Machine
end

section
/-! What a power-on or hard reset leaves (rules R60 to R66, R470), and the invariants at reset (O12, O18). -/

namespace Sys2Proof.Machine

/-! ## The bytes that a power-on leaves -/

/-- The queues are at their reset content (rule R64). -/
theorem byte_powerOn_queue (s : State) (q : QueueId) (o : Nat) :
    (powerOn s).byte (.sq q) o = 0 ∧ (powerOn s).byte (.cq q) o = 0 := by
  unfold State.byte memByte
  simp only [powerOn_mem, Memory.keepFlash, Memory.get_restrict, key_mod, unlisted]
  cases q <;> exact ⟨rfl, rfl⟩

/-- The flash keeps its content (rules R66, R470). -/
theorem byte_powerOn_flash (s : State) (o : Nat) : (powerOn s).byte .flash o = s.byte .flash o := by
  unfold State.byte memByte
  simp only [powerOn_mem, Memory.keepFlash, Memory.get_restrict, key_mod, decide_true, if_true]
  rfl

theorem nvmeReset_queue (q : QueueId) : Nvme.reset.queue q = .reset := by
  cases q <;> rfl

theorem nvmeReset_slot_free {x : Slot} (h : x ∈ Nvme.reset.slots) : x.inUse = false := by
  rw [List.eq_of_mem_replicate h]
  rfl

/-- Settles O18: every record is a reset record, and the bytes of the queues and of the flash are those of `keepFlash`. -/
theorem powerOnValues : Obligations.PowerOnValues := by
  intro s
  have hqueue : ∀ q, (powerOn s).nvme.queue q = .reset := nvmeReset_queue
  refine ⟨rfl, rfl, rfl, rfl, rfl, rfl, rfl, rfl, rfl, rfl, rfl, rfl, rfl, rfl, rfl, rfl, rfl, rfl, rfl, rfl, rfl, rfl, rfl,
    rfl, rfl, rfl, rfl, rfl, rfl, rfl, rfl, ?_, rfl, rfl, rfl, fun x hx => nvmeReset_slot_free hx, rfl, rfl, rfl, rfl, rfl,
    rfl, rfl, rfl, rfl, rfl, byte_powerOn_flash s⟩
  intro q
  rw [hqueue]
  exact ⟨rfl, rfl, rfl, rfl, byte_powerOn_queue s q⟩

/-! ## The invariants at reset -/

theorem cidInv_reset : CidInv State.reset := by
  refine ⟨rfl, fun i j hi _ _ hused _ => ?_⟩
  have hfree : (Nvme.reset.slot i).inUse = false := by
    simp [Nvme.slot, Nvme.reset, hi, Slot.free]
  exact absurd hused (by simp [State.reset, hfree])

theorem headInv_reset : HeadInv State.reset := by
  intro q
  have hqueue : State.reset.nvme.queue q = .reset := nvmeReset_queue q
  rw [hqueue]
  simp [QueuePair.reset]

theorem blockInv_reset : BlockInv State.reset := by
  rw [blockInv_iff]
  rintro (hidentified | hpast) <;> contradiction

/-- Settles O12. -/
theorem resetInvariants : Obligations.ResetInvariants :=
  ⟨Memory.wf_empty, cidInv_reset, headInv_reset, blockInv_reset⟩

end Sys2Proof.Machine
end

section
/-! What a step does to the fields latched from a CBW (rules R32, R275), and that they are constant until the next valid
CBW (O14). An operation either keeps them, which is an equation (`f_ctx`, `f_cbw`), or may reset the block with the whole
context (`CbwOrReset`); only the bulk-OUT handler latches new ones. -/

namespace Sys2Proof.Machine

/-! ## The latched fields -/

/-- The fields of the context that rule R275 latches from a CBW. -/
structure Cbw where
  tag : BitVec 32
  expectedLen : BitVec 32
  direction : Dir
  cdb : Bytes
  lun : BitVec 4
  cblen : BitVec 8

/-- The latched fields of a context. -/
def Ctx.cbw (c : Ctx) : Cbw :=
  { tag := c.tag, expectedLen := c.expectedLen, direction := c.direction, cdb := c.cdb, lun := c.lun, cblen := c.cblen }

theorem sameCbw_iff (a b : Ctx) : SameCbw a b ↔ a.cbw = b.cbw := by
  simp only [SameCbw, Ctx.cbw, Cbw.mk.injEq]

/-- None of the other fields of the context is latched. -/
@[simp] theorem cbw_update (c : Ctx) (state : CtxState) (actual : BitVec 32) (cmdDir : Dir) (cmdLen : BitVec 64)
    (status : BitVec 8) (chunkIdx : Nat) (lba : BitVec 64) (blocksLeft : BitVec 32) (afterCsw : AfterCsw) :
    { c with state := state, actual := actual, cmdDir := cmdDir, cmdLen := cmdLen, status := status, chunkIdx := chunkIdx,
             lba := lba, blocksLeft := blocksLeft, afterCsw := afterCsw }.cbw = c.cbw := rfl

@[simp] theorem ctx_ite (c : Prop) [Decidable c] (s t : State) :
    (if c then s else t).ctx = if c then s.ctx else t.ctx := apply_ite State.ctx c s t

@[simp] theorem cbw_ite (c : Prop) [Decidable c] (a b : Ctx) :
    (if c then a else b).cbw = if c then a.cbw else b.cbw := apply_ite Ctx.cbw c a b

/-! ## Operations that keep them -/

@[simp] theorem haltBoth_cbw (s : State) : (haltBoth s).ctx.cbw = s.ctx.cbw := rfl
@[simp] theorem invalidCbw_cbw (s : State) : (invalidCbw s).ctx.cbw = s.ctx.cbw := rfl
@[simp] theorem dropContext_cbw (s : State) : (dropContext s).ctx.cbw = s.ctx.cbw := rfl
@[simp] theorem clearUsb_cbw (s : State) : (clearUsb s).ctx.cbw = s.ctx.cbw := rfl
@[simp] theorem recover_cbw (s : State) : (recover s).ctx.cbw = s.ctx.cbw := rfl
@[simp] theorem sendChunk_cbw (n : Nat) (s : State) : (sendChunk n s).ctx.cbw = s.ctx.cbw := rfl
@[simp] theorem advanceLba_cbw (n : Nat) (s : State) : (advanceLba n s).ctx.cbw = s.ctx.cbw := rfl
@[simp] theorem finishThen_cbw (a : AfterCsw) (s : State) : (finishThen a s).ctx.cbw = s.ctx.cbw := by
  simp [finishThen]

@[simp] theorem armCbwIf_ctx (c : Bool) (s : State) : (armCbwIf c s).ctx = s.ctx := by
  cases c <;> rfl
@[simp] theorem botReset_cbw (s : State) : (botReset s).ctx.cbw = s.ctx.cbw := by
  simp [botReset]
@[simp] theorem failInFlight_cbw (s : State) : (failInFlight s).ctx.cbw = s.ctx.cbw := by
  obtain ⟨-, h⟩ | ⟨-, h⟩ := failInFlight_cases s <;> simp [h]
@[simp] theorem raiseFault_cbw (c : FaultCode) (s : State) : (raiseFault c s).ctx.cbw = s.ctx.cbw := by
  obtain ⟨-, h⟩ | ⟨-, h⟩ := raiseFault_cases c s <;> simp [h]
@[simp] theorem cancelCtx_cbw (s : State) : (cancelCtx s).ctx.cbw = s.ctx.cbw := by
  unfold cancelCtx
  split
  · rfl
  · simp
@[simp] theorem cancel_cbw (s : State) : (cancel s).ctx.cbw = s.ctx.cbw := by
  simp [cancel]
@[simp] theorem callSubmit_ctx (p : Packet) (o : Owner) (s : State) : (callSubmit p o s).ctx = s.ctx := by
  cases p <;> rfl

/-! ## Chunks of a data phase -/

@[simp] theorem sendBuf_cbw (s : State) : (sendBuf s).ctx.cbw = s.ctx.cbw := by
  simp [sendBuf]
@[simp] theorem readNextChunk_cbw (s : State) : (readNextChunk s).ctx.cbw = s.ctx.cbw := by
  simp [readNextChunk]
@[simp] theorem writeNextChunk_cbw (s : State) : (writeNextChunk s).ctx.cbw = s.ctx.cbw := by
  simp [writeNextChunk]
@[simp] theorem nextOutChunk_cbw (s : State) : (nextOutChunk s).ctx.cbw = s.ctx.cbw := by
  simp [nextOutChunk]

theorem flashChunk_cbw {a n : Nat} {after : State → State} {s t : State}
    (h : flashChunk a n after s = .next t) (hafter : ∀ u, (after u).ctx = u.ctx) : t.ctx.cbw = s.ctx.cbw := by
  unfold flashChunk at h
  split at h
  · cases h
  · split at h <;> cases h <;> simp [hafter]

theorem chunkExec_cbw {n : Nat} {s t : State} (h : chunkExec n s = .next t) : t.ctx.cbw = s.ctx.cbw := by
  unfold chunkExec streamChunk at h
  split at h
  · cases h; simp [writeChunk]
  · exact flashChunk_cbw h fun _ => rfl
  · exact flashChunk_cbw h fun _ => rfl
  · exact flashChunk_cbw h fun _ => rfl
  · cases h; rfl

theorem resumeAt_cbw {r : Resume} {s t : State} (h : resumeAt r s = .next t) : t.ctx.cbw = s.ctx.cbw := by
  cases r with
  | tx n => cases h; simp
  | rx n => exact (chunkExec_cbw h).trans rfl

theorem waitStep_cbw {w : Wait} {s t : State} (h : waitStep w s = .next t) : t.ctx.cbw = s.ctx.cbw := by
  unfold waitStep at h
  simp only at h
  split_ifs at h
  · exact (resumeAt_cbw h).trans rfl
  · cases h; simp
  · cases h; rfl

/-! ## The other agents and the register bus -/

@[simp] theorem hwChange_ctx (a : BitVec 16) (v : Byte) (s : State) : (hwChange a v s).ctx = s.ctx := by
  unfold hwChange
  split <;> rfl

@[simp] theorem dmaStep_ctx (k : Nat) (s : State) : (dmaStep k s).ctx = s.ctx := by
  unfold dmaStep
  cases s.dma.dir <;> simp [dmaCheckDone]

@[simp] theorem offerBulkOut_ctx (b : Bytes) (s : State) : (offerBulkOut b s).ctx = s.ctx := by
  unfold offerBulkOut
  cases s.usb.outArmed <;> simp

/-- Of all the agents' steps only the power-on reaches the context. -/
theorem agentStep_powerOn_or_ctx (i : Input) (s : State) : agentStep i s = powerOn s ∨ (agentStep i s).ctx = s.ctx := by
  cases i with
  | powerOn => exact .inl rfl
  | setup b => right; simp [agentStep, takeSetup]
  | ctlData | ctlStatus => right; simp [agentStep, whenConnected, raiseCtlData, raiseCtlStatus]
  | busReset | suspend | resume => right; simp [agentStep, whenConnected]
  | bulkOut b => exact .inr (offerBulkOut_ctx b s)
  | bulkIn n => right; simp [agentStep, takeBulkIn]
  | dma k => exact .inr (dmaStep_ctx k s)
  | regChange a v => exact .inr (hwChange_ctx a v s)
  | _ => exact .inr rfl

/-- A bus write that does not reset the block (rule R471) leaves the context alone. -/
theorem regWrite_ctx {a : BitVec 16} {v : Byte} (h : writeResets a v = false) (s : State) :
    (regWrite a v s).ctx = s.ctx := by
  unfold regWrite
  cases ht : target a with
  | role r =>
    cases r with
    | cpuReset =>
      have hv : v ≠ Config.resetMagic := by simpa [writeResets, ht] using h
      simp [roleWrite, hv]
    | usbEpStall | dmaStart => simp [roleWrite]
    | _ => rfl
  | ring | plain => rfl

@[simp] theorem regBlock_ctx (n : Nat) (a : BitVec 16) (o : Nat) (s : State) : (regBlock n a o s).ctx = s.ctx := by
  induction n generalizing a o s with
  | zero => rfl
  | succ n ih => exact ih _ _ _

/-! ## The NVMe engine -/

@[simp] theorem initStep_ctx (st : InitStep) (cmd : Instr) (s : State) : (initStep st cmd s).ctx = s.ctx := by
  simp [initStep]
@[simp] theorem initNamespace_ctx (s : State) : (initNamespace s).ctx = s.ctx := by
  simp [initNamespace]
@[simp] theorem initOk_ctx (s : State) : (initOk s).ctx = s.ctx := by
  unfold initOk
  cases s.nvme.init <;> simp

@[simp] theorem deliverCtx_cbw (st : BitVec 15) (s : State) : (deliverCtx st s).ctx.cbw = s.ctx.cbw := by
  simp [deliverCtx]

@[simp] theorem deliver_cbw (i : Nat) (st : BitVec 15) (s : State) : (deliver i st s).ctx.cbw = s.ctx.cbw := by
  unfold deliver
  cases (s.nvme.slot i).owner <;> simp

@[simp] theorem settle_cbw (i : Nat) (st : BitVec 15) (s : State) : (settle i st s).ctx.cbw = s.ctx.cbw := by
  unfold settle
  simp only
  split
  · exact deliver_cbw i st s
  · split
    · simp
    · split <;> simp

@[simp] theorem complete_cbw (q : QueueId) (e : Bytes) (s : State) : (complete q e s).ctx.cbw = s.ctx.cbw := by
  unfold complete
  cases findSlot q (cqeCid e) s <;> simp

@[simp] theorem pollOne_cbw (q : QueueId) (s : State) : (pollOne q s).ctx.cbw = s.ctx.cbw :=
  complete_cbw q _ _

@[simp] theorem slotTimeout_cbw (i : Nat) (s : State) : (slotTimeout i s).ctx.cbw = s.ctx.cbw := by
  unfold slotTimeout
  cases (s.nvme.slot i).owner <;> simp

@[simp] theorem noSlot_cbw (o : Owner) (s : State) : (noSlot s o).ctx.cbw = s.ctx.cbw := by
  cases o <;> simp [noSlot]

@[simp] theorem submit_cbw (p : Packet) (s : State) : (submit p s).ctx.cbw = s.ctx.cbw := by
  cases p with
  | sqe q e => obtain ⟨-, h⟩ | ⟨i, -, h⟩ := submit_cases q e s <;> simp [h]
  | cdb | setup => rfl

/-! ## A step that may reset the block -/

/-- From `s` to `t` the latched fields stay, or the block is reset with the whole context (rules R61, R470, R471). -/
def CbwOrReset (s t : State) : Prop := t.ctx.cbw = s.ctx.cbw ∨ (t.epoch = s.epoch + 1 ∧ t.ctx = Ctx.reset)

theorem cbwOrReset_of_eq {s t : State} (h : t.ctx.cbw = s.ctx.cbw) : CbwOrReset s t := .inl h

theorem cbwOrReset_powerOn (s : State) : CbwOrReset s (powerOn s) := .inr ⟨rfl, rfl⟩

theorem CbwOrReset.after {s u t : State} (m : CbwOrReset u t) (hcbw : u.ctx.cbw = s.ctx.cbw) (hepoch : u.epoch = s.epoch) :
    CbwOrReset s t := by
  unfold CbwOrReset at m ⊢
  rwa [hcbw, hepoch] at m

/-! ## The instructions -/

theorem cbwOrReset_runCdb {body : State → State} (hbody : ∀ u, CbwOrReset u (body u)) (dir : Dir) (len : BitVec 64)
    (s : State) : CbwOrReset s (runCdb dir len body s) := by
  obtain h | h := runCdb_cases dir len body s <;> rw [h]
  · exact cbwOrReset_of_eq (by simp)
  · exact (hbody _).after rfl rfl

@[simp] theorem runCdb_cbw {body : State → State} (hbody : ∀ u, (body u).ctx.cbw = u.ctx.cbw) (dir : Dir)
    (len : BitVec 64) (s : State) : (runCdb dir len body s).ctx.cbw = s.ctx.cbw := by
  obtain h | h := runCdb_cases dir len body s <;> rw [h]
  · simp
  · rw [hbody, cbw_update]

@[simp] theorem runMedium_cbw {body : State → State} (hbody : ∀ u, (body u).ctx.cbw = u.ctx.cbw) (dir : Dir)
    (lba : BitVec 32) (blocks : BitVec 16) (s : State) : (runMedium dir lba blocks body s).ctx.cbw = s.ctx.cbw := by
  simp [runMedium, hbody]

@[simp] theorem sendFlash_cbw (a n : Nat) (s : State) : (sendFlash a n s).ctx.cbw = s.ctx.cbw := by
  simp [sendFlash]
@[simp] theorem runStream_cbw (p : FwPart) (length : BitVec 32) (s : State) :
    (runStream p length s).ctx.cbw = s.ctx.cbw := by
  simp [runStream]
@[simp] theorem runAdmin_cbw (opc : Byte) (rest : BitVec 112) (cmd : Instr) (s : State) :
    (runAdmin opc rest cmd s).ctx.cbw = s.ctx.cbw := by
  simp [runAdmin]
@[simp] theorem ctlReply_ctx (reply : Bytes) (wLength : BitVec 16) (s : State) :
    (ctlReply reply wLength s).ctx = s.ctx := by
  simp [ctlReply]
@[simp] theorem setConfig_ctx (c : BitVec 8) (s : State) : (setConfig c s).ctx = s.ctx := by
  simp [setConfig]

theorem clearHalt_ctx {wIndex : BitVec 16} {s t : State} (h : clearHalt wIndex s = some t) : t.ctx = s.ctx := by
  unfold clearHalt at h
  split_ifs at h <;> cases h <;> simp

/-- The register write of 0xE5 is the one command that may reset the block (rules R354, R361, R471). -/
theorem cbwOrReset_registerWrite (a : BitVec 16) (v : Byte) (s : State) :
    CbwOrReset s (if writeResets a v then powerOn s else finish 0 (regWrite a v s)) := by
  split
  case isTrue => exact cbwOrReset_powerOn s
  case isFalse h =>
    rw [Bool.not_eq_true] at h
    exact cbwOrReset_of_eq (by simp [regWrite_ctx h])

theorem cbwOrReset_exec {i : Instr} {s t : State} (h : exec i s = .next t) : CbwOrReset s t := by
  cases i with
  | vendorE5 value addr =>
    cases h
    split
    · exact cbwOrReset_of_eq (by simp)
    · exact cbwOrReset_runCdb (cbwOrReset_registerWrite _ value) _ _ s
  | clearFeature wValue wIndex wLength =>
    cases h
    split
    · exact cbwOrReset_of_eq (by simp)
    · split
      · rename_i hclear
        exact cbwOrReset_of_eq (by simp [clearHalt_ctx hclear])
      · exact cbwOrReset_of_eq (by simp)
  | getDescriptor type index wIndex wLength =>
    cases h
    split <;> exact cbwOrReset_of_eq (by simp)
  | _ =>
    cases h
    exact cbwOrReset_of_eq (by simp)

theorem cbwOrReset_runPacket {r : Refusal} {p : Packet} {s t : State} (h : runPacket r p s = .next t) :
    CbwOrReset s t := by
  unfold runPacket at h
  split at h
  · exact cbwOrReset_exec h
  · cases h

/-! ## The event handlers -/

@[simp] theorem busReset_cbw (s : State) : (busReset s).ctx.cbw = s.ctx.cbw := by
  unfold busReset
  simp only
  cases s.link.state <;> simp

theorem cbwOrReset_ctlSetupPhase {s t : State} (h : ctlSetupPhase s = .next t) : CbwOrReset s t := by
  unfold ctlSetupPhase at h
  split at h
  · exact cbwOrReset_runPacket h
  · cases h; exact cbwOrReset_of_eq rfl
  · cases h; exact cbwOrReset_of_eq (by simp)

@[simp] theorem ctlDataPhase_cbw (s : State) : (ctlDataPhase s).ctx.cbw = s.ctx.cbw := by
  unfold ctlDataPhase
  cases expectUsb s.link.state <;> simp

@[simp] theorem adoptAddress_ctx (s : State) : (adoptAddress s).ctx = s.ctx := by
  unfold adoptAddress
  cases s.ctl.pendingAddress <;> rfl

@[simp] theorem ctlFinish_cbw (s : State) : (ctlFinish s).ctx.cbw = s.ctx.cbw := by
  simp [ctlFinish]

@[simp] theorem ctlStatusPhase_cbw (s : State) : (ctlStatusPhase s).ctx.cbw = s.ctx.cbw := by
  unfold ctlStatusPhase
  cases expectUsb s.link.state <;> simp

theorem cbwOrReset_cswAck (s : State) : CbwOrReset s (cswAck s) := by
  unfold cswAck
  simp only
  cases s.ctx.afterCsw with
  | hardReset | commitReset => exact (cbwOrReset_powerOn _).after rfl rfl
  | nothing | haltBoth | reenumerate => exact cbwOrReset_of_eq (by simp)

@[simp] theorem dataAck_cbw (s : State) : (dataAck s).ctx.cbw = s.ctx.cbw := by
  simp [dataAck]

theorem cbwOrReset_bulkInHandler (s : State) : CbwOrReset s (bulkInHandler s) := by
  unfold bulkInHandler
  split
  · split_ifs
    · exact cbwOrReset_cswAck s
    · exact cbwOrReset_of_eq (by simp)
    · exact cbwOrReset_of_eq (by simp)
  · split_ifs
    · exact cbwOrReset_cswAck s
    · exact cbwOrReset_of_eq rfl
  · exact cbwOrReset_of_eq (by simp)

@[simp] theorem linkChange_cbw (s : State) : (linkChange s).ctx.cbw = s.ctx.cbw := by
  simp [linkChange]
@[simp] theorem hwError_cbw (s : State) : (hwError s).ctx.cbw = s.ctx.cbw := by
  unfold hwError
  simp only
  cases s.link.state <;> simp
@[simp] theorem cqeEvent_cbw (s : State) : (cqeEvent s).ctx.cbw = s.ctx.cbw := by
  unfold cqeEvent
  simp only
  cases expectCqe s.link.state <;> simp
@[simp] theorem usbSuspend_ctx (s : State) : (usbSuspend s).ctx = s.ctx := by
  simp [usbSuspend]
@[simp] theorem usbResume_ctx (s : State) : (usbResume s).ctx = s.ctx := by
  simp [usbResume]

@[simp] theorem tickTunnelCfg_ctx (s : State) : (tickTunnelCfg s).ctx = s.ctx := by
  unfold tickTunnelCfg
  cases s.nvme.init <;> simp [initStart]

@[simp] theorem linkTick_cbw (s : State) : (linkTick s).ctx.cbw = s.ctx.cbw := by
  unfold linkTick
  cases s.link.state <;> simp [tickPhyInit, phyTimeout, tickLinkTrain, tickResume, tickFault]

/-! ## The accepted CBW, the loop iteration and the step -/

/-- A CBW that passes the three checks was accepted in `DONE` (rules R271, R275). -/
def AcceptsCbw (s t : State) : Prop := s.ctx.state = .done ∧ CbwValid s ∧ t.ctx.cbw = (cbwContext s).cbw

/-- What a step does to the latched fields: nothing, a reset, or a new CBW. -/
def CbwStep (s t : State) : Prop := CbwOrReset s t ∨ AcceptsCbw s t

theorem cbwStep_of_eq {s t : State} (h : t.ctx.cbw = s.ctx.cbw) : CbwStep s t := .inl (.inl h)

/-- The sequencer's place is not among what the fields depend on. -/
theorem cbwStep_goto {p : Pos} {s t : State} : CbwStep (goto p s) t ↔ CbwStep s t := Iff.rfl

/-- Nor are the inputs that wait. -/
theorem cbwStep_env {r : List Input} {s t : State} : CbwStep { s with env := r } t ↔ CbwStep s t := Iff.rfl

/-- The command of an accepted CBW may itself reset the block. -/
theorem cbwStep_receiveCbw {s t : State} (hdone : s.ctx.state = .done) (h : receiveCbw s = .next t) : CbwStep s t := by
  unfold receiveCbw at h
  simp only at h
  split at h
  case isTrue hvalid =>
    rw [latchCbw_eq] at h
    obtain hkept | hreset := cbwOrReset_runPacket h
    · exact .inr ⟨hdone, (validCbw_iff s).mp hvalid, hkept⟩
    · exact .inl (.inr hreset)
  case isFalse =>
    cases h
    exact cbwStep_of_eq rfl

theorem cbwStep_bulkOutHandler {s t : State} (h : bulkOutHandler s = .next t) : CbwStep s t := by
  unfold bulkOutHandler at h
  split at h
  · split_ifs at h with hexpected hdone
    · exact cbwStep_receiveCbw hdone h
    · cases h; exact cbwStep_of_eq rfl
    · cases h; exact cbwStep_of_eq (by simp)
  · cases h; exact cbwStep_of_eq rfl
  · cases h; exact cbwStep_of_eq (by simp)

theorem cbwStep_epHandler {i : Nat} {s t : State} (h : epHandler i s = .next t) : CbwStep s t := by
  unfold epHandler at h
  split_ifs at h
  · cases h; exact .inl (cbwOrReset_bulkInHandler s)
  · exact cbwStep_bulkOutHandler h
  · cases h; exact cbwStep_of_eq (by simp)

@[simp] theorem pollTurn_cbw (q : QueueId) (fromTick : Bool) (s : State) :
    (pollTurn q fromTick s).ctx.cbw = s.ctx.cbw := by
  unfold pollTurn
  cases q <;> simp

@[simp] theorem timeoutTurn_cbw (i : Nat) (s : State) : (timeoutTurn i s).ctx.cbw = s.ctx.cbw := by
  simp [timeoutTurn]

theorem cbwStep_posStep {s t : State} (h : posStep s = .next t) : CbwStep s t := by
  cases hpos : s.seq.pos with
  | ctlSetup =>
    simp only [posStep, hpos] at h
    split at h
    · exact cbwStep_goto.mp (.inl (cbwOrReset_ctlSetupPhase h))
    · cases h; exact cbwStep_of_eq rfl
  | epServe m =>
    simp only [posStep, hpos] at h
    split at h
    · cases h; exact cbwStep_of_eq rfl
    · exact cbwStep_goto.mp (cbwStep_epHandler h)
  | _ =>
    simp only [posStep, hpos] at h
    cases h
    exact cbwStep_of_eq (by simp [unlessFlag])

theorem cbwStep_seqStep {s t : State} (h : seqStep s = .next t) : CbwStep s t := by
  obtain ⟨w, -, hw⟩ | ⟨-, r, i, -, -, hi⟩ | ⟨-, -, hp⟩ := seqStep_cases h
  · exact cbwStep_of_eq (waitStep_cbw hw)
  · exact .inl (cbwOrReset_exec hi)
  · exact cbwStep_posStep hp

theorem cbwStep_step {s t : State} (h : step s = .next t) : CbwStep s t := by
  obtain ⟨u, hu, hseq⟩ | ⟨i, r, -, rfl⟩ | ⟨-, rfl⟩ := step_cases h
  · obtain rfl | ⟨r, -, rfl⟩ := hu
    · exact cbwStep_seqStep hseq
    · exact cbwStep_env.mp (cbwStep_seqStep hseq)
  · obtain hreset | hkept := agentStep_powerOn_or_ctx i { s with env := r }
    · rw [hreset]
      exact .inl ((cbwOrReset_powerOn _).after rfl rfl)
    · exact cbwStep_of_eq (by rw [hkept])
  · exact cbwStep_of_eq (by simp)

/-- Settles O14: a step keeps the latched fields, resets the block, or accepts a CBW. -/
theorem cbwFieldsConstant : Obligations.CbwFieldsConstant := by
  intro s t hstep
  simp only [sameCbw_iff]
  obtain (hkept | hreset) | haccepted := cbwStep_step hstep
  · exact .inl hkept
  · exact .inr (.inr hreset)
  · exact .inr (.inl haccepted)

end Sys2Proof.Machine
end

section
/-! What a step does to the byte memory (rules R13, R70): it stores bytes one by one, clears the queues, or keeps the flash
alone through a power-on, and only the step that ends the wait for a flash chunk stores bytes in the flash. The canonical
form (O8) and the writers of the flash (O16) follow. -/

namespace Sys2Proof.Machine

/-! ## What happens to the memory -/

/-- The memories that come from `m` by stores, by clearing the queues (rule R64) and by power-ons (rule R66); bytes of the
flash are stored only where `flash` holds. -/
inductive MemWrites (flash : Prop) (m : Memory) : Memory → Prop
  | kept : MemWrites flash m m
  | write {n : Memory} (h : MemWrites flash m n) {sp : Space} (hsp : sp = .flash → flash) (o : Nat) (b : Byte) :
      MemWrites flash m (n.write sp o b)
  | clearQueues {n : Memory} (h : MemWrites flash m n) : MemWrites flash m n.clearQueues
  | keepFlash {n : Memory} (h : MemWrites flash m n) : MemWrites flash m n.keepFlash

section
variable {flash : Prop} {m n : Memory}

theorem MemWrites.keeps_wf (h : MemWrites flash m n) (hm : m.wf) : n.wf := by
  induction h with
  | kept => exact hm
  | write _ _ o b ih => exact Memory.wf_write _ o b ih
  | clearQueues _ ih => exact Memory.wf_clearQueues ih
  | keepFlash _ ih => exact Memory.wf_keepFlash ih

/-- Clearing the queues and a power-on spare the flash, so only a store in it changes what it reads as. -/
theorem MemWrites.get_flash (h : MemWrites flash m n) (hno : ¬ flash) (o : Nat) :
    n.get (key .flash o) = m.get (key .flash o) := by
  induction h with
  | kept => rfl
  | write _ hsp p b ih => rw [Memory.get_write, if_neg fun hat => hno (hsp hat.1), ih]
  | clearQueues _ ih => simpa [Memory.clearQueues, Memory.get_restrict, key_mod, Space.code] using ih
  | keepFlash _ ih => simpa [Memory.keepFlash, Memory.get_restrict, key_mod] using ih

@[simp] theorem memWrites_self : MemWrites flash m m := .kept

@[simp] theorem MemWrites.writeBytes (h : MemWrites flash m n) {sp : Space} (hsp : sp = .flash → flash) (o : Nat)
    (b : Bytes) : MemWrites flash m (n.writeBytes sp o b) := by
  induction b generalizing n o with
  | nil => exact h
  | cons x b ih => exact ih (h.write hsp o x) (o + 1)

theorem MemWrites.fill (h : MemWrites flash m n) {sp : Space} (hsp : sp = .flash → flash) (o : Nat) (f : Nat → Byte)
    (k : Nat) : MemWrites flash m (n.fill sp o f k) := by
  induction k generalizing n o with
  | zero => exact h
  | succ k ih => exact ih (h.write hsp o _) (o + 1)

@[simp] theorem memWrites_ite (c : Prop) [Decidable c] (a b : Memory) :
    MemWrites flash m (if c then a else b) ↔ if c then MemWrites flash m a else MemWrites flash m b := by
  split <;> rfl

@[simp] theorem mem_ite (c : Prop) [Decidable c] (s t : State) :
    (if c then s else t).mem = if c then s.mem else t.mem := apply_ite State.mem c s t

/-! ## Operations that keep the memory -/

@[simp] theorem armCbwIf_mem (c : Bool) (s : State) : (armCbwIf c s).mem = s.mem := by
  cases c <;> rfl
@[simp] theorem botReset_mem (s : State) : (botReset s).mem = s.mem := by
  simp [botReset]
@[simp] theorem callSubmit_mem (p : Packet) (o : Owner) (s : State) : (callSubmit p o s).mem = s.mem := by
  cases p <;> rfl
@[simp] theorem initStep_mem (st : InitStep) (cmd : Instr) (s : State) : (initStep st cmd s).mem = s.mem := by
  simp [initStep]
@[simp] theorem initNamespace_mem (s : State) : (initNamespace s).mem = s.mem := by
  simp [initNamespace]
@[simp] theorem initOk_mem (s : State) : (initOk s).mem = s.mem := by
  unfold initOk
  cases s.nvme.init <;> simp
@[simp] theorem ctlReply_mem (reply : Bytes) (wLength : BitVec 16) (s : State) :
    (ctlReply reply wLength s).mem = s.mem := by
  simp [ctlReply]
@[simp] theorem setConfig_mem (c : BitVec 8) (s : State) : (setConfig c s).mem = s.mem := by
  simp [setConfig]
@[simp] theorem adoptAddress_mem (s : State) : (adoptAddress s).mem = s.mem := by
  unfold adoptAddress
  cases s.ctl.pendingAddress <;> rfl
@[simp] theorem busReset_mem (s : State) : (busReset s).mem = s.mem := by
  unfold busReset
  simp only
  cases s.link.state <;> simp
@[simp] theorem ctlFinish_mem (s : State) : (ctlFinish s).mem = s.mem := by
  simp [ctlFinish]
@[simp] theorem tickTunnelCfg_mem (s : State) : (tickTunnelCfg s).mem = s.mem := by
  unfold tickTunnelCfg
  cases s.nvme.init <;> simp [initStart]

theorem clearHalt_mem {wIndex : BitVec 16} {s t : State} (h : clearHalt wIndex s = some t) : t.mem = s.mem := by
  unfold clearHalt at h
  split_ifs at h <;> cases h <;> simp

/-! ## Ends of a command and faults -/

variable {s t : State}

theorem memWrites_finish (h : MemWrites flash m s.mem) (st : BitVec 8) : MemWrites flash m (finish st s).mem :=
  h.writeBytes (by nofun) _ _
@[simp] theorem memWrites_checkCondition (h : MemWrites flash m s.mem) (x : Sense) :
    MemWrites flash m (checkCondition x s).mem :=
  h.writeBytes (by nofun) _ _
@[simp] theorem memWrites_vendorError (h : MemWrites flash m s.mem) : MemWrites flash m (vendorError s).mem :=
  h.writeBytes (by nofun) _ _
@[simp] theorem memWrites_phaseError (h : MemWrites flash m s.mem) : MemWrites flash m (phaseError s).mem :=
  h.writeBytes (by nofun) _ _
@[simp] theorem memWrites_finishThen (h : MemWrites flash m s.mem) (a : AfterCsw) :
    MemWrites flash m (finishThen a s).mem :=
  h.writeBytes (by nofun) _ _

@[simp] theorem memWrites_failInFlight (h : MemWrites flash m s.mem) : MemWrites flash m (failInFlight s).mem := by
  obtain ⟨-, hf⟩ | ⟨-, hf⟩ := failInFlight_cases s <;> simp [hf, h]
@[simp] theorem memWrites_raiseFault (h : MemWrites flash m s.mem) (c : FaultCode) :
    MemWrites flash m (raiseFault c s).mem := by
  obtain ⟨-, hf⟩ | ⟨-, hf⟩ := raiseFault_cases c s <;> simp [hf, h]
@[simp] theorem memWrites_cancel (h : MemWrites flash m s.mem) : MemWrites flash m (cancel s).mem := by
  refine memWrites_raiseFault ?_ _
  simp [cancelCtx, h]

theorem memWrites_powerOn (h : MemWrites flash m s.mem) : MemWrites flash m (powerOn s).mem := h.keepFlash

/-! ## Chunks of a data phase -/

@[simp] theorem memWrites_sendBuf (h : MemWrites flash m s.mem) : MemWrites flash m (sendBuf s).mem := by
  simp [sendBuf, h]
@[simp] theorem memWrites_readNextChunk (h : MemWrites flash m s.mem) : MemWrites flash m (readNextChunk s).mem := by
  simp [readNextChunk, h]
@[simp] theorem memWrites_writeNextChunk (h : MemWrites flash m s.mem) : MemWrites flash m (writeNextChunk s).mem := by
  simp [writeNextChunk, h]
@[simp] theorem memWrites_nextOutChunk (h : MemWrites flash m s.mem) : MemWrites flash m (nextOutChunk s).mem := by
  simp [nextOutChunk, h]

/-! ## The register bus -/

theorem memWrites_hwBetween {f : Byte → State → State}
    (hf : ∀ v u, MemWrites flash m u.mem → MemWrites flash m (f v u).mem) (h : MemWrites flash m s.mem) : MemWrites flash m (hwBetween f s).mem := by
  obtain hb | ⟨v, hb⟩ := hwBetween_cases f s <;> rw [hb]
  · exact h
  · exact hf v _ h

theorem memWrites_hwStore (h : MemWrites flash m s.mem) (a : BitVec 16) (v : Byte) :
    MemWrites flash m (hwStore a v s).mem :=
  h.write (by nofun) _ _

theorem memWrites_rmwOne (h : MemWrites flash m s.mem) (x : BitVec 16 × Byte × Byte) :
    MemWrites flash m (rmwOne s x).mem := by
  unfold rmwOne
  split
  · exact memWrites_hwStore (memWrites_hwBetween (fun v _ hu => memWrites_hwStore hu x.1 v) h) _ _
  · exact h

@[simp] theorem memWrites_rmwList (h : MemWrites flash m s.mem) (l : List (BitVec 16 × Byte × Byte)) :
    MemWrites flash m (rmwList l s).mem := by
  unfold rmwList
  induction l generalizing s with
  | nil => exact h
  | cons x l ih => exact ih (memWrites_rmwOne h x)

theorem memWrites_hwChange (h : MemWrites flash m s.mem) (a : BitVec 16) (v : Byte) :
    MemWrites flash m (hwChange a v s).mem := by
  unfold hwChange
  cases target a with
  | role r => cases r <;> exact h
  | ring => exact h
  | plain => exact memWrites_hwStore h a v

theorem memWrites_regReadMem (h : MemWrites flash m s.mem) (a : BitVec 16) : MemWrites flash m (regReadMem a s) := by
  unfold regReadMem
  cases target a with
  | role | ring => exact h
  | plain =>
    cases Config.policy a with
    | rse => exact h.write (by nofun) _ _
    | rw | ro | w1c | wse | unmapped => exact h

theorem memWrites_plainWriteMem (h : MemWrites flash m s.mem) (a : BitVec 16) (v : Byte) :
    MemWrites flash m (plainWriteMem a v s) := by
  unfold plainWriteMem
  cases Config.policy a with
  | rw | w1c | wse | rse => exact h.write (by nofun) _ _
  | ro | unmapped => exact h

/-- A write to a role reaches the memory only as the reset of the block (rule R471). -/
theorem memWrites_roleWrite (h : MemWrites flash m s.mem) (v : Byte) (r : Role) :
    MemWrites flash m (roleWrite v s r).mem := by
  cases r with
  | cpuReset | usbEpStall | dmaStart => simp [roleWrite, h, h.keepFlash]
  | _ => exact h

@[simp] theorem memWrites_regWrite (h : MemWrites flash m s.mem) (a : BitVec 16) (v : Byte) :
    MemWrites flash m (regWrite a v s).mem := by
  unfold regWrite
  cases target a with
  | role r => exact memWrites_roleWrite h v r
  | ring => exact h
  | plain => exact memWrites_plainWriteMem h a v

@[simp] theorem memWrites_regBlock (h : MemWrites flash m s.mem) (k : Nat) (a : BitVec 16) (o : Nat) :
    MemWrites flash m (regBlock k a o s).mem := by
  induction k generalizing a o s with
  | zero => exact h
  | succ k ih => exact ih ((memWrites_regReadMem h a).write (by nofun) _ _) _ _

/-! ## The other agents -/

theorem memWrites_dmaStep (h : MemWrites flash m s.mem) (k : Nat) : MemWrites flash m (dmaStep k s).mem := by
  unfold dmaStep
  cases s.dma.dir <;> simp [dmaCheckDone, h]

theorem memWrites_offerBulkOut (h : MemWrites flash m s.mem) (b : Bytes) :
    MemWrites flash m (offerBulkOut b s).mem := by
  unfold offerBulkOut
  cases s.usb.outArmed <;> simp [h]

/-- The PCIe windows are those of the staging buffer and the queues (rule R423). -/
theorem translate_ne_flash {addr : BitVec 64} {sp : Space} {o : Nat} (h : translate addr = some (sp, o)) :
    sp ≠ .flash := by
  unfold translate at h
  repeat' split at h
  all_goals cases h
  all_goals nofun

theorem memWrites_pcieWrite (h : MemWrites flash m n) (addr : BitVec 64) (b : Bytes) :
    MemWrites flash m (pcieWrite addr b n) := by
  induction b generalizing addr n with
  | nil => exact h
  | cons x b ih =>
    refine ih ?_ (addr + 1)
    split
    · rename_i sp o htr
      exact h.write (fun hsp => absurd hsp (translate_ne_flash htr)) o x
    · exact h

theorem memWrites_agentStep (h : MemWrites flash m s.mem) (i : Input) : MemWrites flash m (agentStep i s).mem := by
  cases i with
  | powerOn => exact h.keepFlash
  | setup b => simp [agentStep, takeSetup, h]
  | ctlData | ctlStatus => simp [agentStep, whenConnected, raiseCtlData, raiseCtlStatus, h]
  | busReset | suspend | resume => simp [agentStep, whenConnected, h]
  | bulkOut b => exact memWrites_offerBulkOut h b
  | bulkIn k => simp [agentStep, takeBulkIn, h]
  | dma k => exact memWrites_dmaStep h k
  | pcieWrite addr b => exact memWrites_pcieWrite h addr b
  | regChange a v => exact memWrites_hwChange h a v
  | _ => exact h

/-! ## The NVMe engine -/

@[simp] theorem memWrites_issue (h : MemWrites flash m s.mem) (i : Nat) : MemWrites flash m (issue i s).mem :=
  h.writeBytes (by nofun) _ _

@[simp] theorem memWrites_noSlot (h : MemWrites flash m s.mem) (o : Owner) : MemWrites flash m (noSlot s o).mem := by
  cases o with
  | ctx => exact memWrites_checkCondition h _
  | init | none => exact h

@[simp] theorem memWrites_submit (h : MemWrites flash m s.mem) (p : Packet) : MemWrites flash m (submit p s).mem := by
  cases p with
  | sqe q e => obtain ⟨-, hs⟩ | ⟨i, -, hs⟩ := submit_cases q e s <;> simp [hs, h]
  | cdb | setup => exact h

@[simp] theorem memWrites_deliverCtx (h : MemWrites flash m s.mem) (st : BitVec 15) :
    MemWrites flash m (deliverCtx st s).mem := by
  simp [deliverCtx, h]

theorem memWrites_deliver (h : MemWrites flash m s.mem) (i : Nat) (st : BitVec 15) :
    MemWrites flash m (deliver i st s).mem := by
  unfold deliver
  cases (s.nvme.slot i).owner <;> simp [h]

theorem memWrites_settle (h : MemWrites flash m s.mem) (i : Nat) (st : BitVec 15) :
    MemWrites flash m (settle i st s).mem := by
  unfold settle
  simp only
  split
  · exact memWrites_deliver h i st
  · split
    · simp [h]
    · split
      · simp [h]
      · exact memWrites_deliver h i st
      · exact memWrites_deliver h i st

theorem memWrites_pollOne (h : MemWrites flash m s.mem) (q : QueueId) : MemWrites flash m (pollOne q s).mem := by
  unfold pollOne complete
  split
  · exact memWrites_raiseFault (by exact h) _
  · exact memWrites_settle (by exact h) _ _

theorem memWrites_slotTimeout (h : MemWrites flash m s.mem) (i : Nat) : MemWrites flash m (slotTimeout i s).mem := by
  unfold slotTimeout
  cases (s.nvme.slot i).owner <;> simp [h]

/-! ## The instructions -/

@[simp] theorem memWrites_runCdb {body : State → State}
    (hbody : ∀ u, MemWrites flash m u.mem → MemWrites flash m (body u).mem) (h : MemWrites flash m s.mem) (dir : Dir)
    (len : BitVec 64) : MemWrites flash m (runCdb dir len body s).mem := by
  obtain hr | hr := runCdb_cases dir len body s <;> rw [hr]
  · exact memWrites_phaseError h
  · exact hbody _ h

@[simp] theorem memWrites_runMedium {body : State → State}
    (hbody : ∀ u, MemWrites flash m u.mem → MemWrites flash m (body u).mem) (h : MemWrites flash m s.mem) (dir : Dir)
    (lba : BitVec 32) (blocks : BitVec 16) : MemWrites flash m (runMedium dir lba blocks body s).mem := by
  unfold runMedium
  split_ifs
  · exact memWrites_checkCondition h _
  · exact memWrites_checkCondition h _
  · exact memWrites_runCdb hbody (by exact h) _ _

@[simp] theorem memWrites_sendFlash (h : MemWrites flash m s.mem) (a k : Nat) :
    MemWrites flash m (sendFlash a k s).mem := by
  obtain ⟨-, hs⟩ | ⟨-, hs⟩ := sendFlash_cases a k s <;> rw [hs]
  · exact memWrites_sendBuf (h.writeBytes (by nofun) _ _)
  · exact memWrites_vendorError h

@[simp] theorem memWrites_runStream (h : MemWrites flash m s.mem) (p : FwPart) (length : BitVec 32) :
    MemWrites flash m (runStream p length s).mem := by
  unfold runStream
  split
  · exact memWrites_vendorError h
  · exact memWrites_runCdb (fun _ => memWrites_writeNextChunk) h _ _

@[simp] theorem memWrites_runAdmin (h : MemWrites flash m s.mem) (opc : Byte) (rest : BitVec 112) (cmd : Instr) :
    MemWrites flash m (runAdmin opc rest cmd s).mem := by
  unfold runAdmin
  split
  · exact memWrites_runCdb (fun u hu => by rwa [callSubmit_mem]) h _ _
  · exact memWrites_checkCondition h _

/-- A response built into `STAGING` is sent (rule R281). -/
theorem memWrites_respond (resp : State → Bytes) (u : State) (h : MemWrites flash m u.mem) :
    MemWrites flash m (sendBuf (storeBytes .staging 0 (resp u) u)).mem :=
  memWrites_sendBuf (h.writeBytes (by nofun) _ _)

/-- The register write of 0xE5, which may reset the block (rules R354, R361, R471). -/
theorem memWrites_registerWrite (a : BitVec 16) (v : Byte) (u : State) (h : MemWrites flash m u.mem) :
    MemWrites flash m (if writeResets a v then powerOn u else finish 0 (regWrite a v u)).mem := by
  split
  · exact memWrites_powerOn h
  · exact memWrites_finish (memWrites_regWrite h a v) 0

/-- No instruction stores a byte in the flash: its chunks come later (rules R345, R348). -/
theorem memWrites_exec {i : Instr} (h : MemWrites flash m s.mem) (hi : exec i s = .next t) :
    MemWrites flash m t.mem := by
  cases i with
  | requestSense alloc =>
    cases hi
    exact memWrites_runCdb (fun u hu => memWrites_sendBuf (by simp [hu])) h _ _
  | inquiry evpd page alloc =>
    cases hi
    split
    · exact memWrites_checkCondition h _
    · exact memWrites_runCdb (memWrites_respond fun _ => inquiryBytes) h _ _
  | readCapacity10 =>
    cases hi
    split
    · exact memWrites_runCdb (memWrites_respond fun u => capacityBytes u.nvme.nsSize u.nvme.blockSize) h _ _
    · exact memWrites_checkCondition h _
  | modeSense6 pc page alloc =>
    cases hi
    exact memWrites_runCdb (memWrites_respond fun _ => modeSenseBytes) h _ _
  | reportLuns alloc =>
    cases hi
    exact memWrites_runCdb (memWrites_respond fun _ => lunBytes) h _ _
  | read10 lba blocks =>
    cases hi
    exact memWrites_runMedium (fun _ => memWrites_readNextChunk) h _ _ _
  | write10 lba blocks =>
    cases hi
    exact memWrites_runMedium (fun _ => memWrites_writeNextChunk) h _ _ _
  | vendorE4 size addr =>
    cases hi
    split
    · exact memWrites_vendorError h
    · exact memWrites_runCdb (fun _ hu => memWrites_sendBuf (memWrites_regBlock hu _ _ _)) h _ _
  | vendorE5 value addr =>
    cases hi
    split
    · exact memWrites_vendorError h
    · exact memWrites_runCdb (memWrites_registerWrite _ _) h _ _
  | clearFeature wValue wIndex wLength =>
    cases hi
    split
    · exact h
    · split
      · rename_i hclear
        simpa [clearHalt_mem hclear] using h
      · exact h
  | getDescriptor type index wIndex wLength =>
    cases hi
    split <;> simp [h]
  | _ =>
    cases hi
    simp +contextual [h]

theorem memWrites_runPacket {r : Refusal} {p : Packet} (h : MemWrites flash m s.mem) (hp : runPacket r p s = .next t) :
    MemWrites flash m t.mem := by
  unfold runPacket at hp
  split at hp
  · exact memWrites_exec h hp
  · cases hp

/-! ## The event handlers -/

theorem memWrites_ctlSetupPhase (h : MemWrites flash m s.mem) (hp : ctlSetupPhase s = .next t) :
    MemWrites flash m t.mem := by
  unfold ctlSetupPhase at hp
  split at hp
  · exact memWrites_runPacket h hp
  · cases hp; exact h
  · cases hp; exact memWrites_raiseFault h _

@[simp] theorem memWrites_ctlDataPhase (h : MemWrites flash m s.mem) : MemWrites flash m (ctlDataPhase s).mem := by
  unfold ctlDataPhase
  cases expectUsb s.link.state <;> simp [h]

@[simp] theorem memWrites_ctlStatusPhase (h : MemWrites flash m s.mem) : MemWrites flash m (ctlStatusPhase s).mem := by
  unfold ctlStatusPhase
  cases expectUsb s.link.state <;> simp [h]

theorem memWrites_receiveCbw (h : MemWrites flash m s.mem) (hr : receiveCbw s = .next t) : MemWrites flash m t.mem := by
  unfold receiveCbw at hr
  simp only at hr
  split at hr
  · exact memWrites_runPacket (by exact h) hr
  · cases hr; exact h

theorem memWrites_bulkOutHandler (h : MemWrites flash m s.mem) (hb : bulkOutHandler s = .next t) :
    MemWrites flash m t.mem := by
  unfold bulkOutHandler at hb
  split at hb
  · split_ifs at hb
    · exact memWrites_receiveCbw h hb
    · cases hb; exact h
    · cases hb; exact memWrites_raiseFault h _
  · cases hb; exact h
  · cases hb; exact memWrites_raiseFault h _

theorem memWrites_cswAck (h : MemWrites flash m s.mem) : MemWrites flash m (cswAck s).mem := by
  unfold cswAck
  simp only
  cases s.ctx.afterCsw <;> simp [h, h.keepFlash]

theorem memWrites_dataAck (h : MemWrites flash m s.mem) : MemWrites flash m (dataAck s).mem := by
  simp [dataAck, h]

theorem memWrites_bulkInHandler (h : MemWrites flash m s.mem) : MemWrites flash m (bulkInHandler s).mem := by
  unfold bulkInHandler
  split
  · split_ifs
    · exact memWrites_cswAck h
    · exact memWrites_dataAck h
    · exact memWrites_raiseFault h _
  · split_ifs
    · exact memWrites_cswAck h
    · exact h
  · exact memWrites_raiseFault h _

theorem memWrites_epHandler {i : Nat} (h : MemWrites flash m s.mem) (he : epHandler i s = .next t) :
    MemWrites flash m t.mem := by
  unfold epHandler at he
  split_ifs at he
  · cases he; exact memWrites_bulkInHandler h
  · exact memWrites_bulkOutHandler h he
  · cases he; exact h

@[simp] theorem memWrites_linkChange (h : MemWrites flash m s.mem) : MemWrites flash m (linkChange s).mem := by
  simp [linkChange, h]
@[simp] theorem memWrites_hwError (h : MemWrites flash m s.mem) : MemWrites flash m (hwError s).mem := by
  unfold hwError
  simp only
  cases s.link.state <;> simp [h]
@[simp] theorem memWrites_cqeEvent (h : MemWrites flash m s.mem) : MemWrites flash m (cqeEvent s).mem := by
  unfold cqeEvent
  simp only
  cases expectCqe s.link.state <;> simp [h]
@[simp] theorem memWrites_usbSuspend (h : MemWrites flash m s.mem) : MemWrites flash m (usbSuspend s).mem := by
  simp [usbSuspend, enterSuspend, h]
@[simp] theorem memWrites_usbResume (h : MemWrites flash m s.mem) : MemWrites flash m (usbResume s).mem := by
  simp [usbResume, h]

theorem memWrites_linkTick (h : MemWrites flash m s.mem) : MemWrites flash m (linkTick s).mem := by
  unfold linkTick
  cases s.link.state <;> simp [leaveOff, tickPhyInit, phyTimeout, tickLinkTrain, tickResume, tickFault, h, h.clearQueues]

/-! ## The end of a wait for a flash chunk -/

/-- `FlashWrite` stores bytes in the flash alone (rule R346). -/
theorem memWrites_flashProgram (hflash : flash) (h : MemWrites flash m s.mem) (a : Nat) (data : Bytes) :
    MemWrites flash m (flashProgram a data s).mem := by
  unfold flashProgram
  simp only
  rw [programPages_eq _ _ _ _ le_rfl]
  refine MemWrites.writeBytes ?_ (fun _ => hflash) _ _
  split
  · exact h.fill (fun _ => hflash) _ _ _
  · exact h

theorem memWrites_flashGarbage (hflash : flash) (h : MemWrites flash m s.mem) (a k : Nat) :
    MemWrites flash m (flashGarbage a k s).mem := by
  unfold flashGarbage
  simp only
  split <;> exact h.fill (fun _ => hflash) _ _ _

theorem memWrites_flashChunk {a k : Nat} {after : State → State} (hc : flashChunk a k after s = .next t)
    (hafter : ∀ u, (after u).mem = u.mem) (hflash : flash) (h : MemWrites flash m s.mem) : MemWrites flash m t.mem := by
  unfold flashChunk at hc
  split_ifs at hc
  · cases hc
    exact memWrites_nextOutChunk (by rw [hafter]; exact memWrites_flashProgram hflash h _ _)
  · cases hc
    exact memWrites_vendorError (memWrites_flashGarbage hflash h _ _)

/-- Of the commands with a data-OUT phase WRITE(10) submits its chunk, the flash commands program theirs (rule R283). -/
theorem memWrites_chunkExec {k : Nat} (hc : chunkExec k s = .next t)
    (hflash : flashCommand (decodeCdb s.ctx.cdb) = true → flash) (h : MemWrites flash m s.mem) :
    MemWrites flash m t.mem := by
  unfold chunkExec streamChunk at hc
  split at hc
  · cases hc; simpa [writeChunk] using h
  · rename_i hcdb; exact memWrites_flashChunk hc (fun _ => rfl) (hflash (by rw [hcdb]; rfl)) h
  · rename_i hcdb; exact memWrites_flashChunk hc (fun _ => rfl) (hflash (by rw [hcdb]; rfl)) h
  · rename_i hcdb; exact memWrites_flashChunk hc (fun _ => rfl) (hflash (by rw [hcdb]; rfl)) h
  · cases hc; exact h

theorem memWrites_resumeAt {r : Resume} (hr : resumeAt r s = .next t)
    (hflash : (∃ k, r = .rx k) → flashCommand (decodeCdb s.ctx.cdb) = true → flash) (h : MemWrites flash m s.mem) :
    MemWrites flash m t.mem := by
  cases r with
  | tx k => cases hr; simp [h]
  | rx k => exact memWrites_chunkExec hr (hflash ⟨k, rfl⟩) h

end

/-- The step that ends the wait for a bulk-OUT chunk of 0xE1 or 0xE3 (rules R283, R345, R348). -/
def FlashChunkEnds (s : State) : Prop :=
  s.dma.done = true ∧ (∃ w n, s.seq.wait = some w ∧ w.resume = .rx n) ∧ flashCommand (decodeCdb s.ctx.cdb) = true

theorem memWrites_waitStep {w : Wait} {s t : State} (hw : s.seq.wait = some w) (h : waitStep w s = .next t) :
    MemWrites (FlashChunkEnds s) s.mem t.mem := by
  unfold waitStep at h
  simp only at h
  split_ifs at h with hdone
  · exact memWrites_resumeAt h (fun ⟨n, hr⟩ hcmd => ⟨hdone, ⟨w, n, hw, hr⟩, hcmd⟩) .kept
  · cases h
    exact memWrites_raiseFault (by exact .kept) _
  · cases h
    exact .kept

/-! ## The loop iteration and the step -/

section
variable {flash : Prop} {m : Memory} {s t : State}

theorem memWrites_pollTurn (h : MemWrites flash m s.mem) (q : QueueId) (fromTick : Bool) :
    MemWrites flash m (pollTurn q fromTick s).mem := by
  unfold pollTurn
  split
  · exact memWrites_pollOne h q
  · cases q <;> exact h

theorem memWrites_timeoutTurn (h : MemWrites flash m s.mem) (i : Nat) : MemWrites flash m (timeoutTurn i s).mem := by
  unfold timeoutTurn
  simp only
  split_ifs
  · exact h
  · exact memWrites_slotTimeout (by exact h) i
  · exact h

theorem memWrites_posStep (h : MemWrites flash m s.mem) (hp : posStep s = .next t) : MemWrites flash m t.mem := by
  cases hpos : s.seq.pos with
  | ctlSetup =>
    simp only [posStep, hpos] at hp
    split at hp
    · exact memWrites_ctlSetupPhase (by exact h) hp
    · cases hp; exact h
  | epServe mask =>
    simp only [posStep, hpos] at hp
    split at hp
    · cases hp; exact h
    · exact memWrites_epHandler (by exact h) hp
  | timeouts i =>
    simp only [posStep, hpos] at hp
    cases hp
    exact memWrites_timeoutTurn h i
  | poll q fromTick =>
    simp only [posStep, hpos] at hp
    cases hp
    exact memWrites_pollTurn h q fromTick
  | linkTick =>
    simp only [posStep, hpos] at hp
    cases hp
    exact memWrites_linkTick (by exact h)
  | _ =>
    simp only [posStep, hpos] at hp
    cases hp
    simp [unlessFlag, h]

end

theorem memWrites_seqStep {s t : State} (h : seqStep s = .next t) : MemWrites (FlashChunkEnds s) s.mem t.mem := by
  obtain ⟨w, hw, hwait⟩ | ⟨-, r, i, -, -, hi⟩ | ⟨-, -, hp⟩ := seqStep_cases h
  · exact memWrites_waitStep hw hwait
  · exact memWrites_exec .kept hi
  · exact memWrites_posStep .kept hp

/-- What a step does to the memory. -/
theorem memWrites_step {s t : State} (h : step s = .next t) : MemWrites (FlashChunkEnds s) s.mem t.mem := by
  obtain ⟨u, hu, hseq⟩ | ⟨i, r, -, rfl⟩ | ⟨-, rfl⟩ := step_cases h
  · obtain rfl | ⟨r, -, rfl⟩ := hu
    · exact memWrites_seqStep hseq
    · exact (memWrites_seqStep hseq :)
  · exact memWrites_agentStep (by exact .kept) i
  · exact memWrites_dmaStep .kept _

/-- Settles O8: stores, cleared queues and power-ons keep the canonical form, and a step does nothing else to the memory. -/
theorem memoryKept : Obligations.MemoryKept :=
  fun _ _ hs hstep => (memWrites_step hstep).keeps_wf hs

/-- Settles O16: without a flash chunk that ends its wait, the step stores no byte in the flash; the power-ons so far do not
date the flash (rule R66). -/
theorem flashWriters : Obligations.FlashWriters := by
  rintro s t hstep ⟨o, hchanged⟩
  change FlashChunkEnds s
  by_contra hno
  have hget : t.mem.get (key .flash o) = s.mem.get (key .flash o) := (memWrites_step hstep).get_flash hno o
  exact hchanged (memByte_congr (e := 0) hget)

end Sys2Proof.Machine
end

section
/-! The decoder and the encoder (rules R110 to R144): what is decoded is well formed (O4), an encoding decodes to its
instruction (O2), and a setup packet or a submission entry is the encoding of what it decodes to (O3). The byte-order
functions are said once as round trips, the two decoders' catch-all rows once, and an entry that decodes once by its four
conditions. -/

namespace Sys2Proof

/-! ## Reading back what the byte-order functions wrote (rules R11, R79 to R81) -/

theorem getBE64_putBE64 (v : BitVec 64) : getBE64 (putBE64 v) 0 = v := by
  have hhi : getBE32 (putBE64 v) 0 = v.extractLsb' 32 32 := getBE32_putBE32 (v.extractLsb' 32 32)
  have hlo : getBE32 (putBE64 v) (0 + 4) = v.extractLsb' 0 32 := getBE32_putBE32 (v.extractLsb' 0 32)
  rw [getBE64, hhi, hlo, extract_append64]

theorem extract_append112 (v : BitVec 112) :
    v.extractLsb' 48 64 ++ (v.extractLsb' 16 32 ++ v.extractLsb' 0 16) = v := by
  have hlow : v.extractLsb' 16 32 ++ v.extractLsb' 0 16 = v.extractLsb' 0 48 :=
    BitVec.eq_of_getLsbD_eq fun i hi => by
      rw [append_extract v i hi, BitVec.getLsbD_extractLsb']
      simp [hi]
  rw [hlow]
  exact BitVec.eq_of_getLsbD_eq fun i hi => append_extract v i hi

theorem getBE112_putBE112 (v : BitVec 112) : getBE112 (putBE112 v) 0 = v := by
  have h64 : getBE64 (putBE112 v) 0 = v.extractLsb' 48 64 := getBE64_putBE64 (v.extractLsb' 48 64)
  have h32 : getBE32 (putBE112 v) (0 + 8) = v.extractLsb' 16 32 := getBE32_putBE32 (v.extractLsb' 16 32)
  have h16 : getBE16 (putBE112 v) (0 + 12) = v.extractLsb' 0 16 := getBE16_putBE16 (v.extractLsb' 0 16)
  rw [getBE112, h64, h32, h16, extract_append112]

/-! ## Writing again what the byte-order functions read -/

/-- `n` bytes of a byte string from place `i`, as the decoder reads them. -/
def bytesFrom (b : Bytes) (i n : Nat) : Bytes := (List.range n).map fun j => byteAt b (i + j)

theorem bytesFrom_concat (b : Bytes) (i n m : Nat) :
    bytesFrom b i n ++ bytesFrom b (i + n) m = bytesFrom b i (n + m) := by
  simp [bytesFrom, List.range_add, Nat.add_assoc]

theorem bytesFrom_all {b : Bytes} {n : Nat} (h : b.length = n) : bytesFrom b 0 n = b :=
  List.ext_getElem (by simp [bytesFrom, h]) fun i _ hi => by simp [bytesFrom, byteAt, hi]

theorem bytesFrom_append_left {a b : Bytes} {i n : Nat} (h : i + n ≤ a.length) :
    bytesFrom (a ++ b) i n = bytesFrom a i n :=
  List.map_congr_left fun j hj => by rw [byteAt_append, if_pos (by simp at hj; omega)]

theorem bytesFrom_append_right {a b : Bytes} {i n : Nat} (h : a.length ≤ i) :
    bytesFrom (a ++ b) i n = bytesFrom b (i - a.length) n :=
  List.map_congr_left fun j _ => by rw [byteAt_append, if_neg (by omega), Nat.sub_add_comm h]

theorem putLE16_getLE16 (b : Bytes) (i : Nat) : putLE16 (getLE16 b i) = bytesFrom b i 2 := by
  rw [putLE16, getLE16, BitVec.extractLsb'_append_eq_left, BitVec.extractLsb'_append_eq_right]
  rfl

theorem putLE32_getLE32 (b : Bytes) (i : Nat) : putLE32 (getLE32 b i) = bytesFrom b i 4 := by
  rw [putLE32, getLE32, BitVec.extractLsb'_append_eq_left, BitVec.extractLsb'_append_eq_right,
    putLE16_getLE16, putLE16_getLE16, bytesFrom_concat]

theorem putLE64_getLE64 (b : Bytes) (i : Nat) : putLE64 (getLE64 b i) = bytesFrom b i 8 := by
  rw [putLE64, getLE64, BitVec.extractLsb'_append_eq_left, BitVec.extractLsb'_append_eq_right,
    putLE32_getLE32, putLE32_getLE32, bytesFrom_concat]

theorem getLE16_of_bytesFrom {b : Bytes} {i : Nat} {v : BitVec 16} (h : bytesFrom b i 2 = putLE16 v) : getLE16 b i = v := by
  rw [← getLE16_putLE16 (getLE16 b i), putLE16_getLE16, h, getLE16_putLE16]

theorem getLE32_of_bytesFrom {b : Bytes} {i : Nat} {v : BitVec 32} (h : bytesFrom b i 4 = putLE32 v) : getLE32 b i = v := by
  rw [← getLE32_putLE32 (getLE32 b i), putLE32_getLE32, h, getLE32_putLE32]

theorem getLE64_of_bytesFrom {b : Bytes} {i : Nat} {v : BitVec 64} (h : bytesFrom b i 8 = putLE64 v) : getLE64 b i = v := by
  rw [← getLE64_putLE64 (getLE64 b i), putLE64_getLE64, h, getLE64_putLE64]

/-- A 32-bit field whose upper half is zero is its lower half. -/
theorem getLE32_of_upper_zero {b : Bytes} {i : Nat} (h : bytesFrom b (i + 2) 2 = zeros 2) :
    getLE32 b i = (getLE16 b i).setWidth 32 := by
  have hupper : getLE16 b (i + 2) = 0 := getLE16_of_bytesFrom h
  rw [getLE32, hupper]
  exact (BitVec.setWidth_eq_append (by omega)).symm

/-! ## CDBs (rules R112, R114 to R130) -/

/-- The decoder reads no byte past 15, and a byte the CDB does not have reads as zero (rule R112). -/
theorem decodeCdb_padTo (b : Bytes) : decodeCdb (padTo 16 b) = decodeCdb b := by
  simp [decodeCdb, getBE112, getBE64, getBE32, getBE24, getBE16, byteAt_padTo]

theorem decode_padTo {b : Bytes} {i : Instr} (h : decodeCdb b = i) : decode (.cdb (padTo 16 b)) = .ok i := by
  rw [decode, length_padTo, decodeCdb_padTo, h]
  rfl

/-- The catch-all row of the opcodes (rule R144). -/
theorem decodeCdb_of_unlisted {b : Bytes} (h : byteAt b 0 ∉ listedOpcodes) :
    decodeCdb b = .illegalOpcode (byteAt b 0) := by
  simp only [listedOpcodes, List.mem_cons, List.not_mem_nil, not_or, or_false] at h
  simp only [decodeCdb, h, if_false]

/-- A row is tried where the rows before it did not match. -/
theorem wf_ite {c : Prop} [Decidable c] {i j : Instr} (hi : c → i.wf = true) (hj : ¬c → j.wf = true) :
    (if c then i else j).wf = true := by
  split
  case isTrue hc => exact hi hc
  case isFalse hc => exact hj hc

theorem vendorE3BadSub_wf_iff (sub : Byte) : (Instr.vendorE3BadSub sub).wf = true ↔ sub ≠ 0x50 ∧ sub ≠ 0xD0 := by
  simp only [Instr.wf, Bool.and_eq_true, bne_iff_ne]

theorem vendorE6BadSub_wf_iff (sub : Byte) : (Instr.vendorE6BadSub sub).wf = true ↔ sub ≠ 0x02 ∧ sub ≠ 0x06 := by
  simp only [Instr.wf, Bool.and_eq_true, bne_iff_ne]

theorem vendorE8BadSub_wf_iff (sub : Byte) :
    (Instr.vendorE8BadSub sub).wf = true ↔ sub ≠ 0x00 ∧ sub ≠ 0x01 ∧ sub ≠ 0x51 := by
  simp only [Instr.wf, Bool.and_eq_true, bne_iff_ne, and_assoc]

theorem illegalOpcode_wf_iff (op : Byte) : (Instr.illegalOpcode op).wf = true ↔ op ∉ listedOpcodes := by
  simp [Instr.wf]

/-- The rows of a listed opcode are well formed: a row for any other sub-opcode comes after the rows for its own. -/
theorem decodeCdb_wf (b : Bytes) : (decodeCdb b).wf = true :=
  wf_ite (fun _ => rfl) fun h00 =>
  wf_ite (fun _ => rfl) fun h03 =>
  wf_ite (fun _ => rfl) fun h12 =>
  wf_ite (fun _ => rfl) fun h1A =>
  wf_ite (fun _ => rfl) fun h25 =>
  wf_ite (fun _ => rfl) fun h28 =>
  wf_ite (fun _ => rfl) fun h2A =>
  wf_ite (fun _ => rfl) fun h35 =>
  wf_ite (fun _ => rfl) fun hA0 =>
  wf_ite (fun _ => wf_ite (fun _ => rfl) bne_iff_ne.mpr) fun hE0 =>
  wf_ite (fun _ => wf_ite (fun _ => rfl) bne_iff_ne.mpr) fun hE1 =>
  wf_ite (fun _ => rfl) fun hE2 =>
  wf_ite (fun _ => wf_ite (fun _ => rfl) fun s50 => wf_ite (fun _ => rfl) fun sD0 =>
    (vendorE3BadSub_wf_iff _).mpr ⟨s50, sD0⟩) fun hE3 =>
  wf_ite (fun _ => rfl) fun hE4 =>
  wf_ite (fun _ => rfl) fun hE5 =>
  wf_ite (fun _ => wf_ite (fun _ => rfl) fun s02 => wf_ite (fun _ => rfl) fun s06 =>
    (vendorE6BadSub_wf_iff _).mpr ⟨s02, s06⟩) fun hE6 =>
  wf_ite (fun _ => wf_ite (fun _ => rfl) fun s00 => wf_ite (fun _ => rfl) fun s01 => wf_ite (fun _ => rfl) fun s51 =>
    (vendorE8BadSub_wf_iff _).mpr ⟨s00, s01, s51⟩) fun hE8 =>
  (illegalOpcode_wf_iff _).mpr (by
    simp only [listedOpcodes, List.mem_cons, List.not_mem_nil, or_self, not_false_eq_true, *])

/-! ## Setup packets (rules R131, R132) -/

/-- The catch-all row of the requests (rule R132). -/
theorem decodeSetup_of_unlisted {b : Bytes} (h : (byteAt b 0, byteAt b 1) ∉ listedRequests) :
    decodeSetup b = .unhandledRequest (byteAt b 0) (byteAt b 1) (getLE16 b 2) (getLE16 b 4) (getLE16 b 6) := by
  simp only [listedRequests, List.mem_cons, Prod.mk.injEq, List.not_mem_nil, not_or, or_false] at h
  simp only [decodeSetup, h, if_false]

theorem decodeSetup_wf (b : Bytes) : (decodeSetup b).wf = true := by
  by_cases hreq : (byteAt b 0, byteAt b 1) ∈ listedRequests
  case neg => simp [decodeSetup_of_unlisted hreq, Instr.wf, hreq]
  case pos =>
    simp only [decodeSetup]
    split_ifs
    case neg => simp only [listedRequests, List.mem_cons, Prod.mk.injEq, List.not_mem_nil, or_self, *] at hreq
    all_goals rfl

/-- A setup packet is its two request bytes and its three little-endian fields (rule R131). -/
theorem setup_fields {b : Bytes} (h : b.length = 8) :
    [byteAt b 0, byteAt b 1] ++ putLE16 (getLE16 b 2) ++ putLE16 (getLE16 b 4) ++ putLE16 (getLE16 b 6) = b := by
  calc [byteAt b 0, byteAt b 1] ++ putLE16 (getLE16 b 2) ++ putLE16 (getLE16 b 4) ++ putLE16 (getLE16 b 6)
      = bytesFrom b 0 8 := by simp only [putLE16_getLE16]; rfl
    _ = b := bytesFrom_all h

theorem encode_decodeSetup {b : Bytes} (h : b.length = 8) : encode (decodeSetup b) = .setup b := by
  have hb := congrArg Packet.setup (setup_fields h)
  simp only [decodeSetup]
  split_ifs with h1 h2 h3 h4 h5 h6 h7 h8
  · rwa [h1.1, h1.2] at hb
  · rwa [h2.1, h2.2] at hb
  · rwa [h3.1, h3.2] at hb
  · rwa [h4.1, h4.2] at hb
  · rwa [h5.1, h5.2] at hb
  · rwa [h6.1, h6.2] at hb
  · rwa [h7.1, h7.2] at hb
  · rwa [h8.1, h8.2] at hb
  · exact hb

theorem decode_setup {b : Bytes} {i : Instr} (hlen : b.length = 8) (h : decodeSetup b = i) : decode (.setup b) = .ok i := by
  rw [decode, if_pos hlen, h]

/-- The three fields as an encoded packet holds them read back, whatever the request does with them. -/
theorem getLE16_fields (f : BitVec 16 → BitVec 16 → BitVec 16 → Instr) (v i l : BitVec 16) :
    f (getLE16 (putLE16 v) 0) (getLE16 (putLE16 i) 0) (getLE16 (putLE16 l) 0) = f v i l := by
  simp only [getLE16_putLE16]

/-! ## Submission entries (rules R139, R140) -/

theorem zeroAt_iff {b : Bytes} {is : List Nat} : zeroAt b is = true ↔ ∀ i ∈ is, byteAt b i = 0 := by
  simp [zeroAt]

theorem zeroAt_append (b : Bytes) (is js : List Nat) : zeroAt b (is ++ js) = (zeroAt b is && zeroAt b js) :=
  List.all_append

theorem zeroAt_range'_iff {b : Bytes} {i n : Nat} :
    zeroAt b (List.range' i n) = true ↔ bytesFrom b i n = zeros n := by
  rw [zeroAt_iff, zeros, List.eq_replicate_iff]
  have hmem : ∀ j, j ∈ List.range' i n ↔ ∃ k, k < n ∧ i + k = j := fun j => by simp [List.mem_range', eq_comm]
  simp [bytesFrom, hmem]

/-- The reserved bytes are byte 1 and three runs (rule R139). -/
theorem zeroAt_reserved_iff {b : Bytes} : zeroAt b sqeReservedBytes = true ↔
    byteAt b 1 = 0 ∧ bytesFrom b 8 16 = zeros 16 ∧ bytesFrom b 32 8 = zeros 8 ∧ bytesFrom b 52 12 = zeros 12 := by
  have hruns : sqeReservedBytes = [1] ++ (List.range' 8 16 ++ (List.range' 32 8 ++ List.range' 52 12)) := rfl
  simp only [hruns, zeroAt_append, Bool.and_eq_true, zeroAt_range'_iff]
  simp [zeroAt]

/-- Create I/O CQ and SQ have no namespace (rule R140). -/
theorem zeroAt_createIo_iff {b : Bytes} {opc : Byte} (h : opc = 0x05 ∨ opc = 0x01) :
    zeroAt b (sqeZeroBytes .admin opc) = true ↔ bytesFrom b 4 4 = zeros 4 ∧ bytesFrom b 48 4 = zeros 4 := by
  have hruns : sqeZeroBytes .admin opc = List.range' 4 4 ++ List.range' 48 4 := if_pos h
  simp only [hruns, zeroAt_append, Bool.and_eq_true, zeroAt_range'_iff]

/-- Every other admin command has no `CDW12` (rule R140). -/
theorem zeroAt_admin_iff {b : Bytes} {opc : Byte} (h : ¬(opc = 0x05 ∨ opc = 0x01)) :
    zeroAt b (sqeZeroBytes .admin opc) = true ↔ bytesFrom b 48 4 = zeros 4 := by
  have hruns : sqeZeroBytes .admin opc = List.range' 48 4 := if_neg h
  rw [hruns, zeroAt_range'_iff]

/-- Flush has no pointer and no command fields (rule R140). -/
theorem zeroAt_flush_iff {b : Bytes} : zeroAt b (sqeZeroBytes .io 0x00) = true ↔
    bytesFrom b 24 8 = zeros 8 ∧ bytesFrom b 40 4 = zeros 4 ∧ bytesFrom b 44 4 = zeros 4 ∧ bytesFrom b 48 4 = zeros 4 := by
  have hruns : sqeZeroBytes .io 0x00 =
      List.range' 24 8 ++ (List.range' 40 4 ++ (List.range' 44 4 ++ List.range' 48 4)) := rfl
  simp only [hruns, zeroAt_append, Bool.and_eq_true, zeroAt_range'_iff]

/-- A transfer has no upper half of `CDW12` (rule R140). -/
theorem zeroAt_transfer_iff {b : Bytes} {opc : Byte} (h : opc ≠ 0x00) :
    zeroAt b (sqeZeroBytes .io opc) = true ↔ bytesFrom b 50 2 = zeros 2 := by
  have hruns : sqeZeroBytes .io opc = List.range' 50 2 := if_neg h
  rw [hruns, zeroAt_range'_iff]

/-- The four conditions on an entry that decodes. -/
theorem decodeSqe_eq_ok_iff {q : QueueId} {b : Bytes} {i : Instr} :
    decodeSqe q b = .ok i ↔ b.length = 64 ∧ sqeCommand q b = some i ∧
      zeroAt b sqeReservedBytes = true ∧ zeroAt b (sqeZeroBytes q (byteAt b 0)) = true := by
  unfold decodeSqe
  rw [zeroAt_append]
  split
  case isTrue hlen => simp [hlen]
  case isFalse hlen =>
    cases sqeCommand q b with
    | none => simp
    | some j =>
      simp only [Bool.and_eq_true]
      split <;> simp_all

theorem sqeCommand_wf {q : QueueId} {b : Bytes} {i : Instr} (h : sqeCommand q b = some i) : i.wf = true := by
  cases q with
  | admin =>
    simp only [sqeCommand] at h
    split_ifs at h <;> cases h <;> rfl
  | io =>
    simp only [sqeCommand] at h
    split_ifs at h <;> cases h <;> rfl

section
variable (opc : Byte) (cid : BitVec 16) (nsid : BitVec 32) (prp1 : BitVec 64) (c10 c11 c12 : BitVec 32)

@[simp] theorem sqeBytes_opcode : byteAt (sqeBytes opc cid nsid prp1 c10 c11 c12) 0 = opc := rfl

/-- The places of the fields and of the zero runs in an encoded entry (rule R139). -/
theorem bytesFrom_sqeBytes :
    bytesFrom (sqeBytes opc cid nsid prp1 c10 c11 c12) 2 2 = putLE16 cid ∧
    bytesFrom (sqeBytes opc cid nsid prp1 c10 c11 c12) 4 4 = putLE32 nsid ∧
    bytesFrom (sqeBytes opc cid nsid prp1 c10 c11 c12) 8 16 = zeros 16 ∧
    bytesFrom (sqeBytes opc cid nsid prp1 c10 c11 c12) 24 8 = putLE64 prp1 ∧
    bytesFrom (sqeBytes opc cid nsid prp1 c10 c11 c12) 32 8 = zeros 8 ∧
    bytesFrom (sqeBytes opc cid nsid prp1 c10 c11 c12) 40 4 = putLE32 c10 ∧
    bytesFrom (sqeBytes opc cid nsid prp1 c10 c11 c12) 44 4 = putLE32 c11 ∧
    bytesFrom (sqeBytes opc cid nsid prp1 c10 c11 c12) 48 4 = putLE32 c12 ∧
    bytesFrom (sqeBytes opc cid nsid prp1 c10 c11 c12) 52 12 = zeros 12 := by
  simp (disch := simp) only [sqeBytes, bytesFrom_append_left, bytesFrom_append_right]
  exact ⟨rfl, rfl, bytesFrom_all rfl, bytesFrom_all rfl, bytesFrom_all rfl, bytesFrom_all rfl, bytesFrom_all rfl,
    bytesFrom_all rfl, bytesFrom_all rfl⟩

theorem sqeBytes_reserved : zeroAt (sqeBytes opc cid nsid prp1 c10 c11 c12) sqeReservedBytes = true := by
  obtain ⟨-, -, h8, -, h32, -, -, -, h52⟩ := bytesFrom_sqeBytes opc cid nsid prp1 c10 c11 c12
  exact zeroAt_reserved_iff.mpr ⟨rfl, h8, h32, h52⟩

/-- The decoder reads the fields back. -/
@[simp] theorem sqeBytes_reads :
    getLE16 (sqeBytes opc cid nsid prp1 c10 c11 c12) 2 = cid ∧
    getLE32 (sqeBytes opc cid nsid prp1 c10 c11 c12) 4 = nsid ∧
    getLE64 (sqeBytes opc cid nsid prp1 c10 c11 c12) 24 = prp1 ∧
    getLE32 (sqeBytes opc cid nsid prp1 c10 c11 c12) 40 = c10 ∧
    getLE32 (sqeBytes opc cid nsid prp1 c10 c11 c12) 44 = c11 ∧
    getLE32 (sqeBytes opc cid nsid prp1 c10 c11 c12) 48 = c12 := by
  obtain ⟨h2, h4, -, h24, -, h40, h44, h48, -⟩ := bytesFrom_sqeBytes opc cid nsid prp1 c10 c11 c12
  exact ⟨getLE16_of_bytesFrom h2, getLE32_of_bytesFrom h4, getLE64_of_bytesFrom h24, getLE32_of_bytesFrom h40,
    getLE32_of_bytesFrom h44, getLE32_of_bytesFrom h48⟩

/-- The two halves of `CDW12` (rule R140). -/
theorem sqeBytes_cdw12_halves : getLE16 (sqeBytes opc cid nsid prp1 c10 c11 c12) 50 = c12.extractLsb' 16 16 ∧
    getLE16 (sqeBytes opc cid nsid prp1 c10 c11 c12) 48 = c12.extractLsb' 0 16 := by
  obtain ⟨-, -, -, -, -, h48⟩ := sqeBytes_reads opc cid nsid prp1 c10 c11 c12
  exact append_inj.mp (h48.trans (extract_append32 c12).symm)

end

/-- An entry of the encoder decodes where its command and its further zero fields are right. -/
theorem decode_sqeBytes {q : QueueId} {opc : Byte} {cid : BitVec 16} {nsid c10 c11 c12 : BitVec 32} {prp1 : BitVec 64}
    {i : Instr} (hcommand : sqeCommand q (sqeBytes opc cid nsid prp1 c10 c11 c12) = some i)
    (hzero : zeroAt (sqeBytes opc cid nsid prp1 c10 c11 c12) (sqeZeroBytes q opc) = true) :
    decode (.sqe q (sqeBytes opc cid nsid prp1 c10 c11 c12)) = .ok i :=
  decodeSqe_eq_ok_iff.mpr ⟨rfl, hcommand, sqeBytes_reserved opc cid nsid prp1 c10 c11 c12, hzero⟩

/-- The lower half of a transfer's `CDW12` is its block count (rule R140). -/
@[simp] theorem sqeBytes_nlb (opc : Byte) (cid : BitVec 16) (nsid : BitVec 32) (prp1 : BitVec 64) (c10 c11 : BitVec 32)
    (nlb : BitVec 16) : getLE16 (sqeBytes opc cid nsid prp1 c10 c11 (nlb.setWidth 32)) 48 = nlb := by
  have hlower : (nlb.setWidth 32).extractLsb' 0 16 = nlb := BitVec.eq_of_getLsbD_eq fun i hi => by simp [hi]; omega
  rw [(sqeBytes_cdw12_halves ..).2, hlower]

/-- The upper half of a transfer's `CDW12` is zero (rule R140). -/
theorem sqeBytes_upper_zero (opc : Byte) (cid : BitVec 16) (nsid : BitVec 32) (prp1 : BitVec 64) (c10 c11 : BitVec 32)
    (nlb : BitVec 16) : bytesFrom (sqeBytes opc cid nsid prp1 c10 c11 (nlb.setWidth 32)) 50 2 = zeros 2 := by
  have hupper : (nlb.setWidth 32).extractLsb' 16 16 = 0 := BitVec.eq_of_getLsbD_eq fun i hi => by simp
  rw [← putLE16_getLE16, (sqeBytes_cdw12_halves ..).1, hupper]
  rfl

/-- An entry whose reserved bytes are zero is the entry of its fields (rule R139). -/
theorem sqeBytes_fields {b : Bytes} (hlen : b.length = 64) (hreserved : zeroAt b sqeReservedBytes = true) :
    sqeBytes (byteAt b 0) (getLE16 b 2) (getLE32 b 4) (getLE64 b 24) (getLE32 b 40) (getLE32 b 44) (getLE32 b 48) = b := by
  obtain ⟨h1, h8, h32, h52⟩ := zeroAt_reserved_iff.mp hreserved
  have h0 : [byteAt b 0, 0] = bytesFrom b 0 2 := by rw [← h1]; rfl
  rw [sqeBytes, h0, ← h8, ← h32, ← h52]
  simp only [putLE16_getLE16, putLE32_getLE32, putLE64_getLE64]
  calc _ = bytesFrom b 0 64 := rfl
    _ = b := bytesFrom_all hlen

/-- An entry that meets the conditions is the encoding of its command: each field that the command does not carry is zero. -/
theorem encode_sqeCommand {q : QueueId} {b : Bytes} {i : Instr} (hlen : b.length = 64) (hi : sqeCommand q b = some i)
    (hreserved : zeroAt b sqeReservedBytes = true) (hzero : zeroAt b (sqeZeroBytes q (byteAt b 0)) = true) :
    encode i = .sqe q b := by
  have hb := congrArg (Packet.sqe q) (sqeBytes_fields hlen hreserved)
  cases q with
  | admin =>
    simp only [sqeCommand] at hi
    split_ifs at hi with h06 h05 h01 h02 <;> cases hi
    · rw [h06] at hb hzero
      rwa [getLE32_of_bytesFrom (v := 0) ((zeroAt_admin_iff (by decide)).mp hzero)] at hb
    · rw [h05] at hb hzero
      obtain ⟨hnsid, h48⟩ := (zeroAt_createIo_iff (.inl rfl)).mp hzero
      rwa [getLE32_of_bytesFrom (v := 0) hnsid, getLE32_of_bytesFrom (v := 0) h48] at hb
    · rw [h01] at hb hzero
      obtain ⟨hnsid, h48⟩ := (zeroAt_createIo_iff (.inr rfl)).mp hzero
      rwa [getLE32_of_bytesFrom (v := 0) hnsid, getLE32_of_bytesFrom (v := 0) h48] at hb
    · rw [h02] at hb hzero
      rwa [getLE32_of_bytesFrom (v := 0) ((zeroAt_admin_iff (by decide)).mp hzero)] at hb
  | io =>
    simp only [sqeCommand] at hi
    split_ifs at hi with h00 h01 h02 <;> cases hi
    · rw [h00] at hb hzero
      obtain ⟨h24, h40, h44, h48⟩ := zeroAt_flush_iff.mp hzero
      rwa [getLE64_of_bytesFrom (v := 0) h24, getLE32_of_bytesFrom (v := 0) h40,
        getLE32_of_bytesFrom (v := 0) h44, getLE32_of_bytesFrom (v := 0) h48] at hb
    · rw [h01] at hb hzero
      rw [getLE32_of_upper_zero ((zeroAt_transfer_iff (by decide)).mp hzero)] at hb
      rwa [encode, BitVec.extractLsb'_append_eq_left, BitVec.extractLsb'_append_eq_right]
    · rw [h02] at hb hzero
      rw [getLE32_of_upper_zero ((zeroAt_transfer_iff (by decide)).mp hzero)] at hb
      rwa [encode, BitVec.extractLsb'_append_eq_left, BitVec.extractLsb'_append_eq_right]

/-! ## The obligations -/

/-- Settles O2, by a case for each row: the decoder takes the row of the encoded opcode, and each field reads back. A
catch-all row is reached because its instruction is well formed. -/
theorem decodeEncode : Obligations.DecodeEncode := by
  intro i hwf
  cases i with
  | testUnitReady | readCapacity10 | synchronizeCache | vendorE8_00 | vendorE8_01 | vendorE8_51 => exact decode_padTo rfl
  | requestSense alloc | vendorE0_50 alloc | vendorE1_50 alloc => exact decode_padTo rfl
  | inquiry evpd page alloc =>
    have hevpd : (if evpd then (1 : Byte) else 0).getLsbD 0 = evpd := by cases evpd <;> rfl
    exact decode_padTo (congr (congrArg (Instr.inquiry · page) hevpd) (getBE16_putBE16 alloc))
  | modeSense6 pc page alloc =>
    exact decode_padTo (congrArg₂ (Instr.modeSense6 · · alloc) BitVec.extractLsb'_append_eq_left
      BitVec.extractLsb'_append_eq_right)
  | read10 lba blocks => exact decode_padTo (congrArg₂ Instr.read10 (getBE32_putBE32 lba) (getBE16_putBE16 blocks))
  | write10 lba blocks => exact decode_padTo (congrArg₂ Instr.write10 (getBE32_putBE32 lba) (getBE16_putBE16 blocks))
  | reportLuns alloc => exact decode_padTo (congrArg Instr.reportLuns (getBE32_putBE32 alloc))
  | vendorE2 length => exact decode_padTo (congrArg Instr.vendorE2 (getBE32_putBE32 length))
  | vendorE3_50 length => exact decode_padTo (congrArg Instr.vendorE3_50 (getBE32_putBE32 length))
  | vendorE3_D0 length => exact decode_padTo (congrArg Instr.vendorE3_D0 (getBE32_putBE32 length))
  | vendorE4 size addr => exact decode_padTo (congrArg (Instr.vendorE4 size) (getBE24_putBE24 addr))
  | vendorE5 value addr => exact decode_padTo (congrArg (Instr.vendorE5 value) (getBE24_putBE24 addr))
  | vendorE6_02 rest => exact decode_padTo (congrArg Instr.vendorE6_02 (getBE112_putBE112 rest))
  | vendorE6_06 rest => exact decode_padTo (congrArg Instr.vendorE6_06 (getBE112_putBE112 rest))
  | vendorE0BadSub sub | vendorE1BadSub sub => exact decode_padTo (if_neg (bne_iff_ne.mp hwf))
  | vendorE3BadSub sub =>
    obtain ⟨h50, hD0⟩ := (vendorE3BadSub_wf_iff sub).mp hwf
    exact decode_padTo ((if_neg h50).trans (if_neg hD0))
  | vendorE6BadSub sub =>
    obtain ⟨h02, h06⟩ := (vendorE6BadSub_wf_iff sub).mp hwf
    exact decode_padTo ((if_neg h02).trans (if_neg h06))
  | vendorE8BadSub sub =>
    obtain ⟨h00, h01, h51⟩ := (vendorE8BadSub_wf_iff sub).mp hwf
    exact decode_padTo ((if_neg h00).trans ((if_neg h01).trans (if_neg h51)))
  | illegalOpcode op => exact decode_padTo (decodeCdb_of_unlisted (b := [op]) ((illegalOpcode_wf_iff op).mp hwf))
  | getStatusDevice v i l => exact decode_setup rfl (getLE16_fields .getStatusDevice v i l)
  | getStatusInterface v i l => exact decode_setup rfl (getLE16_fields .getStatusInterface v i l)
  | getStatusEndpoint v i l => exact decode_setup rfl (getLE16_fields .getStatusEndpoint v i l)
  | clearFeature v i l => exact decode_setup rfl (getLE16_fields .clearFeature v i l)
  | setAddress v i l => exact decode_setup rfl (getLE16_fields .setAddress v i l)
  | getDescriptor type index i l =>
    refine decode_setup rfl (.trans ?_ (getLE16_fields (fun _ => .getDescriptor type index) 0 i l))
    exact congrArg₂ (Instr.getDescriptor · · _ _) BitVec.extractLsb'_append_eq_left
      BitVec.extractLsb'_append_eq_right
  | setConfiguration v i l => exact decode_setup rfl (getLE16_fields .setConfiguration v i l)
  | bulkOnlyReset v i l => exact decode_setup rfl (getLE16_fields .bulkOnlyReset v i l)
  | unhandledRequest t r v i l =>
    have hreq : (t, r) ∉ listedRequests := by simpa [Instr.wf] using hwf
    exact decode_setup rfl ((decodeSetup_of_unlisted (b := t :: r :: _) hreq).trans
      (getLE16_fields (.unhandledRequest t r) v i l))
  | identify cid nsid prp1 c10 c11 =>
    obtain ⟨-, -, -, -, -, -, -, h48, -⟩ := bytesFrom_sqeBytes 0x06 cid nsid prp1 c10 c11 0
    exact decode_sqeBytes (by simp [sqeCommand]) ((zeroAt_admin_iff (by decide)).mpr h48)
  | createIoCq cid prp1 c10 c11 =>
    obtain ⟨-, h4, -, -, -, -, -, h48, -⟩ := bytesFrom_sqeBytes 0x05 cid 0 prp1 c10 c11 0
    exact decode_sqeBytes (by simp [sqeCommand]) ((zeroAt_createIo_iff (.inl rfl)).mpr ⟨h4, h48⟩)
  | createIoSq cid prp1 c10 c11 =>
    obtain ⟨-, h4, -, -, -, -, -, h48, -⟩ := bytesFrom_sqeBytes 0x01 cid 0 prp1 c10 c11 0
    exact decode_sqeBytes (by simp [sqeCommand]) ((zeroAt_createIo_iff (.inr rfl)).mpr ⟨h4, h48⟩)
  | getLogPage cid nsid prp1 c10 c11 =>
    obtain ⟨-, -, -, -, -, -, -, h48, -⟩ := bytesFrom_sqeBytes 0x02 cid nsid prp1 c10 c11 0
    exact decode_sqeBytes (by simp [sqeCommand]) ((zeroAt_admin_iff (by decide)).mpr h48)
  | nvmeFlush cid nsid =>
    obtain ⟨-, -, -, h24, -, h40, h44, h48, -⟩ := bytesFrom_sqeBytes 0x00 cid nsid 0 0 0 0
    exact decode_sqeBytes (by simp [sqeCommand]) (zeroAt_flush_iff.mpr ⟨h24, h40, h44, h48⟩)
  | nvmeWrite cid nsid prp1 slba nlb =>
    exact decode_sqeBytes (by simp [sqeCommand, extract_append64])
      ((zeroAt_transfer_iff (by decide)).mpr (sqeBytes_upper_zero ..))
  | nvmeRead cid nsid prp1 slba nlb =>
    exact decode_sqeBytes (by simp [sqeCommand, extract_append64])
      ((zeroAt_transfer_iff (by decide)).mpr (sqeBytes_upper_zero ..))

/-- Settles O4, by the carrier. -/
theorem decodedWellFormed : Obligations.DecodedWellFormed := by
  intro p i h
  cases p with
  | cdb b =>
    simp only [decode] at h
    split at h <;> cases h
    exact decodeCdb_wf b
  | setup b =>
    simp only [decode] at h
    split at h <;> cases h
    exact decodeSetup_wf b
  | sqe q b =>
    obtain ⟨-, hcommand, -, -⟩ := decodeSqe_eq_ok_iff.mp h
    exact sqeCommand_wf hcommand

/-- Settles O3: a setup packet is its fields, and an entry that decodes is zero wherever its command has no field. -/
theorem encodeDecode : Obligations.EncodeDecode := by
  refine ⟨fun b => encode_decodeSetup, fun q b i h => ?_⟩
  obtain ⟨hlen, hcommand, hreserved, hzero⟩ := decodeSqe_eq_ok_iff.mp h
  exact encode_sqeCommand hlen hcommand hreserved hzero

/-- Settles O1, by running the decoder on the four words. -/
theorem decodeWords : Obligations.DecodeWords := by
  unfold Obligations.DecodeWords
  decide

end Sys2Proof
end

section
/-! The transport's invalid CBW (O50) and one turn of the poll of a completion queue (O58): what `findSlot` finds, what
consuming an entry leaves alone, and the fields of the entry byte by byte. -/

namespace Sys2Proof.Machine

/-! ## An invalid CBW (rules R271, R274) -/

theorem receiveCbw_of_invalid {s : State} (h : ¬CbwValid s) :
    receiveCbw s = .next (invalidCbw { s with ctx := { s.ctx with state := .receivingCbw } }) :=
  if_neg (mt (validCbw_iff s).mp h)

/-- Settles O50: the transfer fails the check, and `invalidCbw` is the stated record. -/
theorem invalidCbwStalls : Obligations.InvalidCbwStalls :=
  fun _ h => receiveCbw_of_invalid h

/-! ## The queue pairs of the engine (rule R42) -/

@[simp] theorem queue_setQueue (n : Nvme) (q : QueueId) (p : QueuePair) : (n.setQueue q p).queue q = p := by
  cases q <;> rfl

theorem queue_setQueue_of_ne (n : Nvme) {q r : QueueId} (p : QueuePair) (h : r ≠ q) :
    (n.setQueue q p).queue r = n.queue r := by
  cases q with
  | admin => cases r with
    | admin => contradiction
    | io => rfl
  | io => cases r with
    | admin => rfl
    | io => contradiction

theorem setQueue_eq (n : Nvme) (q : QueueId) (p : QueuePair) :
    n.setQueue q p = { n with adminQ := (n.setQueue q p).adminQ, ioQ := (n.setQueue q p).ioQ } := by
  cases q <;> rfl

@[simp] theorem setQueue_slots (n : Nvme) (q : QueueId) (p : QueuePair) : (n.setQueue q p).slots = n.slots := by
  cases q <;> rfl

/-! ## The slot that holds an id (rules R382, R384) -/

/-- Slot `i` is in use on queue `q` and holds `cid`. -/
def Nvme.holds (n : Nvme) (q : QueueId) (cid : BitVec 16) (i : Nat) : Prop :=
  (n.slot i).inUse = true ∧ (n.slot i).q = q ∧ (n.slot i).cid = cid

theorem slot_eq_getElem {n : Nvme} {i : Nat} (h : i < n.slots.length) : n.slot i = n.slots[i] := by
  simp [Nvme.slot, h]

theorem findSlot_eq_some {q : QueueId} {cid : BitVec 16} {s : State} {i : Nat} (hi : i < s.nvme.slots.length)
    (hheld : s.nvme.holds q cid i) (hfirst : ∀ j, j < i → ¬s.nvme.holds q cid j) : findSlot q cid s = some i := by
  rw [findSlot, List.findIdx?_eq_some_iff_getElem]
  simp only [Nvme.holds] at hheld hfirst
  refine ⟨hi, by simpa [slot_eq_getElem hi, and_assoc] using hheld, fun j hj => ?_⟩
  simpa [slot_eq_getElem (hj.trans hi), and_assoc] using hfirst j hj

theorem findSlot_eq_none {q : QueueId} {cid : BitVec 16} {s : State}
    (h : ∀ j, j < s.nvme.slots.length → ¬s.nvme.holds q cid j) : findSlot q cid s = none := by
  rw [findSlot, List.findIdx?_eq_none_iff]
  intro x hx
  obtain ⟨j, hj, rfl⟩ := List.getElem_of_mem hx
  simpa [Nvme.holds, slot_eq_getElem hj, and_assoc] using h j hj

/-- A completion for the first slot that holds its id (rule R382). -/
theorem complete_of_held {q : QueueId} {e : Bytes} {s : State} {i : Nat} (hi : i < s.nvme.slots.length)
    (hheld : s.nvme.holds q (cqeCid e) i) (hfirst : ∀ j, j < i → ¬s.nvme.holds q (cqeCid e) j) :
    complete q e s = settle i (cqeStatus e) (setSlot i { s.nvme.slot i with cqe := e, phase := cqePhase e } s) := by
  rw [complete, findSlot_eq_some hi hheld hfirst]

/-- A completion for an id that no slot holds (rule R384). -/
theorem complete_of_not_held {q : QueueId} {e : Bytes} {s : State}
    (h : ∀ j, j < s.nvme.slots.length → ¬s.nvme.holds q (cqeCid e) j) :
    complete q e s = raiseFault .unexpectedEvent s := by
  rw [complete, findSlot_eq_none h]

/-! ## The entry at the head (rules R141, R381) -/

theorem byteAt_headCqe (q : QueueId) (s : State) {j : Nat} (h : j < 16) :
    byteAt (headCqe q s) j = s.byte (.cq q) (16 * (s.nvme.queue q).cqHead.val + j) := by
  rw [headCqe, byteAt_bytes, if_pos h]

theorem cqeCid_headCqe (q : QueueId) (s : State) : cqeCid (headCqe q s) =
    s.byte (.cq q) (16 * (s.nvme.queue q).cqHead.val + 13) ++ s.byte (.cq q) (16 * (s.nvme.queue q).cqHead.val + 12) := by
  rw [cqeCid, getLE16, byteAt_headCqe q s (by decide), byteAt_headCqe q s (by decide)]

theorem cqeStatus_headCqe (q : QueueId) (s : State) : cqeStatus (headCqe q s) =
    (s.byte (.cq q) (16 * (s.nvme.queue q).cqHead.val + 15) ++
      s.byte (.cq q) (16 * (s.nvme.queue q).cqHead.val + 14) : BitVec 16).extractLsb' 1 15 := by
  rw [cqeStatus, getLE16, byteAt_headCqe q s (by decide), byteAt_headCqe q s (by decide)]

theorem cqePhase_headCqe (q : QueueId) (s : State) :
    cqePhase (headCqe q s) = (s.byte (.cq q) (16 * (s.nvme.queue q).cqHead.val + 14)).getLsbD 0 := by
  rw [cqePhase, getLE16, byteAt_headCqe q s (by decide), BitVec.getLsbD_append]
  rfl

/-- The state with the entry at the head of `CQ[q]` consumed. -/
def headConsumed (q : QueueId) (s : State) : State := { s with nvme := s.nvme.setQueue q (s.nvme.queue q).consume }

theorem pollTurn_of_fresh {q : QueueId} (fromTick : Bool) {s : State}
    (h : cqePhase (headCqe q s) = (s.nvme.queue q).cqPhase) :
    pollTurn q fromTick s = complete q (headCqe q s) (headConsumed q s) :=
  if_pos (beq_iff_eq.mpr h)

/-- Where the sequencer goes once the poll of a queue is over (rules R173, R178). -/
def afterPoll (fromTick : Bool) : QueueId → Pos
  | .admin => .poll .io fromTick
  | .io => if fromTick then .linkTick else .sysError

theorem pollTurn_of_stale {q : QueueId} (fromTick : Bool) {s : State}
    (h : cqePhase (headCqe q s) ≠ (s.nvme.queue q).cqPhase) :
    pollTurn q fromTick s = goto (afterPoll fromTick q) s := by
  have hstale : cqeFresh q s ≠ true := mt beq_iff_eq.mp h
  cases q with
  | admin => exact if_neg hstale
  | io => exact if_neg hstale

/-! ## The obligation -/

/-- Settles O58: a new entry is consumed before it is completed, and consuming it leaves the slots alone, so the slot that
holds its id is the one that did before. -/
theorem pollConsumes : Obligations.PollConsumes := by
  intro q fromTick s p b e h held
  have hentry : headCqe q s = e := bytes_eq ..
  have hphase : cqePhase e = (b 14).getLsbD 0 := hentry ▸ cqePhase_headCqe q s
  have hcid : cqeCid e = b 13 ++ b 12 := hentry ▸ cqeCid_headCqe q s
  have hstatus : cqeStatus e = (b 15 ++ b 14 : BitVec 16).extractLsb' 1 15 := hentry ▸ cqeStatus_headCqe q s
  split
  case isFalse hstale =>
    rw [pollTurn_of_stale fromTick (by rwa [hentry, hphase])]
    cases q <;> rfl
  case isTrue hfresh =>
    have hqueue : (headConsumed q s).nvme.queue q = p.consume := queue_setQueue ..
    have hslots : (headConsumed q s).nvme.slots = s.nvme.slots := setQueue_slots ..
    have hslot : ∀ j, (headConsumed q s).nvme.slot j = s.nvme.slot j := fun j => by rw [Nvme.slot, hslots, Nvme.slot]
    have hholds : ∀ j, (headConsumed q s).nvme.holds q (cqeCid e) j ↔ held j := fun j => by rw [Nvme.holds, hslot, hcid]
    refine ⟨headConsumed q s, ?_, rfl, setQueue_eq .., congrArg (·.cqHead.val) hqueue, congrArg (·.cqHeadDb) hqueue,
      congrArg (·.consumed) hqueue, congrArg (·.cqPhase) hqueue, congrArg (·.sqTail) hqueue, congrArg (·.sqTailDb) hqueue,
      fun r => queue_setQueue_of_ne _ _, ?_, ?_⟩
    · rw [pollTurn_of_fresh fromTick (by rwa [hentry, hphase]), hentry]
    · intro i hi hheld hfirst
      rw [complete_of_held (by rwa [hslots]) ((hholds i).mpr hheld) fun j hj => mt (hholds j).mp (hfirst j hj),
        hstatus, hphase, hfresh, hslot]
      rfl
    · intro hnone
      exact complete_of_not_held fun j hj => mt (hholds j).mp (hnone j (hslots ▸ hj))

end Sys2Proof.Machine
end

section
/-! The link machine's bring-up (O22), and suspend and resume (O23). A list of read-modify-writes reaches the register
space alone and puts on each byte what `rmwByteAt` says; a tick is one equation for each link state and each outcome. -/

namespace Sys2Proof.Machine

/-! ## Lists of read-modify-writes (rules R162, R194, R207) -/

/-- An address that a list may name, in the terms of `rmwByteAt`. -/
theorem listable_iff (a : BitVec 16) :
    listable a = true ↔ target a = .plain ∧ Config.policy a = .rw ∧ Region.uart.contains a = false := by
  simp [listable, plainRw, and_assoc]

theorem rmwList_changes (l : List (BitVec 16 × Byte × Byte)) (s : State) :
    Changes s (rmwList l s) (fun sp _ => sp = .reg) := by
  intro sp o hsp
  rw [byte_rmwList]
  simp [Ne.symm hsp]

theorem rmwByteAt_eq_foldl (l : List (BitVec 16 × Byte × Byte)) (a : BitVec 16) (b : Byte) :
    rmwByteAt l a b = l.foldl (fun b x => if x.1 = a ∧ listable a = true then rmwByte b x.2.1 x.2.2 else b) b := by
  simp only [listable_iff]
  rfl

theorem byte_rmwList_reg (l : List (BitVec 16 × Byte × Byte)) (s : State) (a : BitVec 16) :
    (rmwList l s).byte .reg a.toNat = rmwByteAt l a (s.byte .reg a.toNat) := by
  have hnames (x : BitVec 16 × Byte × Byte) :
      (x.1.toNat = a.toNat ∧ listable x.1 = true) ↔ (x.1 = a ∧ listable a = true) := by
    rw [BitVec.toNat_inj]
    exact and_congr_right fun hx => by rw [hx]
  rw [byte_rmwList, rmwByteAt_eq_foldl]
  simp only [true_and, hnames]

/-- Only the bits of `set` under its mask count, so that the inverse may complement all of `set`. -/
theorem rmwByte_xor_mask (old mask set : Byte) : rmwByte old mask (set ^^^ mask) = rmwByte old mask (~~~set) := by
  have hset : (set ^^^ mask) &&& mask = ~~~set &&& mask := by
    refine BitVec.eq_of_getLsbD_eq fun i hi => ?_
    simp only [BitVec.getLsbD_and, BitVec.getLsbD_xor, BitVec.getLsbD_not, hi, decide_true, Bool.true_and]
    cases set.getLsbD i <;> cases mask.getLsbD i <;> rfl
  unfold rmwByte
  rw [hset]

theorem rmwByteAt_inverseList (l : List (BitVec 16 × Byte × Byte)) (a : BitVec 16) (b : Byte) :
    rmwByteAt (inverseList l) a b = rmwByteAt (l.reverse.map fun x => (x.1, x.2.1, ~~~x.2.2)) a b := by
  unfold inverseList
  rw [rmwByteAt_eq_foldl, rmwByteAt_eq_foldl, ← List.map_reverse, List.foldl_map, List.foldl_map]
  simp only [rmwByte_xor_mask]

/-! ## The bridge enable bit (rules R25, R198) -/

/-- Each bit under the mask is that of `set`, each other bit the old one. -/
theorem getLsbD_rmwByte (old mask set : Byte) {j : Nat} (h : j < 8) :
    (rmwByte old mask set).getLsbD j = if mask.getLsbD j then set.getLsbD j else old.getLsbD j := by
  simp only [rmwByte, BitVec.getLsbD_or, BitVec.getLsbD_and, BitVec.getLsbD_not, h, decide_true, Bool.true_and]
  cases mask.getLsbD j <;> simp

theorem getLsbD_bitByte (b : RoleBit) {j : Nat} (h : j < 8) :
    (bitByte b true).getLsbD j = decide (j = (Config.bitPos b).val) := by
  simp only [bitByte, oneHot, if_true, BitVec.getLsbD_shiftLeft, BitVec.getLsbD_one, h, decide_true, Bool.true_and]
  grind

theorem getLsbD_setBit_same (old : Byte) (b : RoleBit) :
    (rmwByte old (bitByte b true) (bitByte b true)).getLsbD (Config.bitPos b).val = true := by
  have hlt := (Config.bitPos b).isLt
  rw [getLsbD_rmwByte _ _ _ hlt, getLsbD_bitByte b hlt]
  simp

theorem getLsbD_setBit_of_ne (old : Byte) (b : RoleBit) {j : Nat} (h : j < 8) (hne : j ≠ (Config.bitPos b).val) :
    (rmwByte old (bitByte b true) (bitByte b true)).getLsbD j = old.getLsbD j := by
  rw [getLsbD_rmwByte _ _ _ h, getLsbD_bitByte b h, decide_eq_false hne, if_neg Bool.false_ne_true]

/-! ## The link tick by link state (rule R192) -/

section
variable {s : State}

theorem linkTick_off (h : s.link.state = .off) : linkTick s = leaveOff s := by simp only [linkTick, h]
theorem linkTick_phyInit (h : s.link.state = .phyInit) : linkTick s = tickPhyInit s := by simp only [linkTick, h]
theorem linkTick_linkTrain (h : s.link.state = .linkTrain) : linkTick s = tickLinkTrain s := by simp only [linkTick, h]
theorem linkTick_tunnelCfg (h : s.link.state = .tunnelCfg) : linkTick s = tickTunnelCfg s := by simp only [linkTick, h]
theorem linkTick_resume (h : s.link.state = .resume) : linkTick s = tickResume s := by simp only [linkTick, h]

/-! ## The transitions with their entry actions (rules R193, R196 to R198, R205, R207) -/

theorem leaveOff_eq (s : State) :
    leaveOff s = { s with
      link := { s.link with state := .phyInit, retryCounter := 0, stateEntry := s.now, timeoutCounter := 0 }
      mem := (leaveOff s).mem
      race := (leaveOff s).race } := by
  unfold leaveOff
  rw [rmwList_eq Config.phyInitList s]
  rfl

theorem phyReady_eq (s : State) :
    phyReady s = { s with
      link := { s.link with state := .linkTrain, phyReady := true, retryCounter := 0, stateEntry := s.now, timeoutCounter := 0 }
      phy := { s.phy with tunByteEn := 0xFF, tunLaneMap := Config.laneMap, tunCtrl := (phyReady s).phy.tunCtrl }
      race := (phyReady s).race } := by
  unfold phyReady
  rw [trainTunnel_eq, (trainTunnel_phy _).1]
  rfl

theorem phyReady_tunCtrl (s : State) :
    (phyReady s).phy.tunCtrl = rmwByte s.phy.tunCtrl (bitByte .bridgeEn true) (bitByte .bridgeEn true) := by
  unfold phyReady
  rw [(trainTunnel_phy _).1]
  rfl

theorem enterSuspend_eq (s : State) :
    enterSuspend s = { s with
      link := { s.link with state := .suspend, suspended := true, stateEntry := s.now, timeoutCounter := 0 }
      mem := (enterSuspend s).mem
      race := (enterSuspend s).race } := by
  unfold enterSuspend
  rw [rmwList_eq Config.clockGateList]
  rfl

/-! ## The ticks of the bring-up by outcome (rules R195 to R202) -/

/-- Neither readiness bit alone ends the wait for the PHY. -/
theorem not_ready_of_and_eq_false (h : (s.phy.rdyA && s.phy.rdyB) = false) :
    ¬(s.phy.rdyA = true ∧ s.phy.rdyB = true) := by
  rw [← Bool.and_eq_true, h]
  exact Bool.false_ne_true

theorem tickPhyInit_of_ready (ha : s.phy.rdyA = true) (hb : s.phy.rdyB = true) : tickPhyInit s = phyReady s :=
  if_pos ⟨ha, hb⟩

theorem tickPhyInit_of_waiting (hr : (s.phy.rdyA && s.phy.rdyB) = false)
    (ht : s.now - s.link.stateEntry < Config.tPhyReady) : tickPhyInit s = s :=
  (if_neg (not_ready_of_and_eq_false hr)).trans (if_neg (Nat.not_le.mpr ht))

theorem tickPhyInit_of_timeout (hr : (s.phy.rdyA && s.phy.rdyB) = false)
    (ht : Config.tPhyReady ≤ s.now - s.link.stateEntry) : tickPhyInit s = phyTimeout s :=
  (if_neg (not_ready_of_and_eq_false hr)).trans (if_pos ht)

/-- The first two time-outs open a new window in the same state. -/
theorem phyTimeout_of_retry (hs : s.link.state = .phyInit) (h : s.link.retryCounter + 1 < 3) :
    phyTimeout s = { s with link := { s.link with
      retryCounter := s.link.retryCounter + 1, stateEntry := s.now, timeoutCounter := 0 } } := by
  have hcount : ¬ Config.phyRetryMax ≤ s.link.retryCounter + 1 := Nat.not_le.mpr h
  unfold phyTimeout
  rw [if_neg hcount, enter, ← hs]

theorem phyTimeout_of_last (h : 3 ≤ s.link.retryCounter + 1) :
    phyTimeout s = raiseFault .phyTimeout { s with link := { s.link with retryCounter := s.link.retryCounter + 1 } } :=
  if_pos h

theorem tickLinkTrain_of_complete (h : s.phy.tunComplete = true) :
    tickLinkTrain s = enter .tunnelCfg { s with link := { s.link with pcieLinkUp := true } } := if_pos h

theorem tickLinkTrain_of_timeout (hc : s.phy.tunComplete = false) (ht : Config.tLinkTrain ≤ s.now - s.link.stateEntry) :
    tickLinkTrain s = raiseFault .tunnelTimeout s :=
  (if_neg (ne_true_of_eq_false hc)).trans (if_pos ht)

theorem tickLinkTrain_of_waiting (hc : s.phy.tunComplete = false) (ht : s.now - s.link.stateEntry < Config.tLinkTrain) :
    tickLinkTrain s = s :=
  (if_neg (ne_true_of_eq_false hc)).trans (if_neg (Nat.not_le.mpr ht))

theorem tickTunnelCfg_of_idle (h : s.nvme.init = .idle) : tickTunnelCfg s = initStart s := by
  simp only [tickTunnelCfg, h]

theorem tickTunnelCfg_of_under_way
    (h : s.nvme.init = .idCtrl ∨ s.nvme.init = .idNs ∨ s.nvme.init = .createCq ∨ s.nvme.init = .createSq) :
    tickTunnelCfg s = s := by
  unfold tickTunnelCfg
  obtain h | h | h | h := h <;> rw [h]

theorem tickTunnelCfg_of_ended (h : s.nvme.init = .done ∨ s.nvme.init = .failed) :
    tickTunnelCfg s = enter .ready { s with usb := { s.usb with connected := true } } := by
  unfold tickTunnelCfg
  obtain h | h := h <;> rw [h]

/-- The bring-up starts with Identify Controller (rules R201, R395). -/
theorem initStart_submits (s : State) :
    InitSubmits s (initStart s) .idCtrl (.identify 0 0 Config.stagingPcieAddr 1 0) := ⟨_, rfl, rfl⟩

/-! ## Suspend, resume and the tick of `RESUME` by outcome (rules R204, R207 to R209) -/

theorem usbSuspend_of_quiet (hl : s.link.state = .ready) (hd : s.ctx.state = .done) (ho : ctxOutstanding s = false) :
    usbSuspend s = enterSuspend { s with ev := { s.ev with usbSuspend := false } } :=
  (if_pos hl).trans (if_pos ⟨hd, ho⟩)

theorem usbSuspend_of_in_flight (hl : s.link.state = .ready) (h : s.ctx.state ≠ .done ∨ ctxOutstanding s = true) :
    usbSuspend s = s := by
  have hbusy : ¬(s.ctx.state = .done ∧ ctxOutstanding s = false) := fun ⟨hd, ho⟩ =>
    h.elim (absurd hd) (ne_true_of_eq_false ho)
  exact (if_pos hl).trans (if_neg hbusy)

theorem usbSuspend_of_not_ready (hl : s.link.state ≠ .ready) :
    usbSuspend s = { s with ev := { s.ev with usbSuspend := false } } := if_neg hl

theorem usbResume_of_suspend (hl : s.link.state = .suspend) :
    usbResume s = enter .resume (rmwList (inverseList Config.clockGateList) { s with ev := { s.ev with usbResume := false } }) :=
  if_pos hl

theorem usbResume_of_not_suspend (hl : s.link.state ≠ .suspend) :
    usbResume s = { s with ev := { s.ev with usbResume := false } } := if_neg hl

theorem usbResume_eq (hl : s.link.state = .suspend) :
    usbResume s = { s with
      link := { s.link with state := .resume, stateEntry := s.now, timeoutCounter := 0 }
      ev := { s.ev with usbResume := false }
      mem := (usbResume s).mem
      race := (usbResume s).race } := by
  rw [usbResume_of_suspend hl, rmwList_eq (inverseList Config.clockGateList)]
  rfl

theorem tickResume_of_clocks (h : s.phy.clocksOn = true) :
    tickResume s = enter .ready { s with link := { s.link with suspended := false } } := if_pos h

theorem tickResume_of_timeout (hc : s.phy.clocksOn = false) (ht : Config.tResume ≤ s.now - s.link.stateEntry) :
    tickResume s = raiseFault .resumeTimeout s :=
  (if_neg (ne_true_of_eq_false hc)).trans (if_pos ht)

theorem tickResume_of_waiting (hc : s.phy.clocksOn = false) (ht : s.now - s.link.stateEntry < Config.tResume) :
    tickResume s = s :=
  (if_neg (ne_true_of_eq_false hc)).trans (if_neg (Nat.not_le.mpr ht))

end

/-! ## The obligations -/

/-- Settles O22: the tick of each state of the bring-up, outcome by outcome. -/
theorem bringUpTicks : Obligations.BringUpTicks := by
  intro s
  refine ⟨fun hoff => ?_, fun hinit ha hb => ?_, fun hinit hr ht => ?_, fun hinit hr ht hretry => ?_,
    fun hinit hr ht hlast => ?_, fun htrain hc => ?_, fun htrain hc ht => ?_, fun htrain hc ht => ?_,
    fun hcfg hidle => ?_, fun hcfg hway => ?_, fun hcfg hended => ?_⟩
  · rw [linkTick_off hoff]
    exact ⟨leaveOff_eq s, rmwList_changes _ s, byte_rmwList_reg _ s⟩
  · rw [linkTick_phyInit hinit, tickPhyInit_of_ready ha hb]
    refine ⟨phyReady_eq s, ?_, fun j hj hne => ?_⟩
    · rw [phyReady_tunCtrl, getLsbD_setBit_same]
    · rw [phyReady_tunCtrl, getLsbD_setBit_of_ne _ _ hj hne]
  · rw [linkTick_phyInit hinit, tickPhyInit_of_waiting hr ht]
  · rw [linkTick_phyInit hinit, tickPhyInit_of_timeout hr ht, phyTimeout_of_retry hinit hretry]
  · rw [linkTick_phyInit hinit, tickPhyInit_of_timeout hr ht, phyTimeout_of_last hlast]
  · rw [linkTick_linkTrain htrain, tickLinkTrain_of_complete hc]
    rfl
  · rw [linkTick_linkTrain htrain, tickLinkTrain_of_timeout hc ht]
  · rw [linkTick_linkTrain htrain, tickLinkTrain_of_waiting hc ht]
  · rw [linkTick_tunnelCfg hcfg, tickTunnelCfg_of_idle hidle]
    exact initStart_submits s
  · rw [linkTick_tunnelCfg hcfg, tickTunnelCfg_of_under_way hway]
  · rw [linkTick_tunnelCfg hcfg, tickTunnelCfg_of_ended hended]
    rfl

/-- Settles O23: the suspend event, the resume event and the tick of `RESUME`, outcome by outcome. -/
theorem suspendResume : Obligations.SuspendResume := by
  intro s
  refine ⟨fun hl hd ho => ?_, usbSuspend_of_in_flight, usbSuspend_of_not_ready, fun hl => ⟨usbResume_eq hl, ?_⟩,
    usbResume_of_not_suspend, fun hl hc => ?_, fun hl hc ht => ?_, fun hl hc ht => ?_⟩
  · rw [usbSuspend_of_quiet hl hd ho]
    exact ⟨enterSuspend_eq _, rmwList_changes _ _, byte_rmwList_reg _ _⟩
  · rw [usbResume_of_suspend hl]
    refine ⟨rmwList_changes _ _, fun a => ?_⟩
    rw [← rmwByteAt_inverseList]
    exact byte_rmwList_reg _ _ a
  · rw [linkTick_resume hl, tickResume_of_clocks hc]
    rfl
  · rw [linkTick_resume hl, tickResume_of_timeout hc ht]
  · rw [linkTick_resume hl, tickResume_of_waiting hc ht]

end Sys2Proof.Machine
end

section
/-! The sequencer's dispatch: the endpoint lookup table (O21), and the two places of the iteration at which a carrier's
instruction is fetched and run, the bulk-OUT event of a CBW (O5) and the setup flag (O6). -/

namespace Sys2Proof.Machine

/-! ## The endpoint lookup (rule R174) -/

theorem lowestSetFrom_of_clear {m : BitVec 8} {i n : Nat} (h : ∀ j, i ≤ j → j < i + n → m.getLsbD j = false) :
    lowestSetFrom m i n = Config.epNone := by
  induction n generalizing i with
  | zero => rfl
  | succ n ih =>
    have hbit : m.getLsbD i = false := h i (by omega) (by omega)
    rw [lowestSetFrom, hbit]
    exact ih fun j hj hlt => h j (by omega) (by omega)

theorem lowestSetFrom_of_set {m : BitVec 8} {i n : Nat} (h : ∃ j, i ≤ j ∧ j < i + n ∧ m.getLsbD j = true) :
    lowestSetFrom m i n < i + n ∧ m.getLsbD (lowestSetFrom m i n) = true ∧
      ∀ j, i ≤ j → j < lowestSetFrom m i n → m.getLsbD j = false := by
  induction n generalizing i with
  | zero =>
    obtain ⟨j, hij, hlt, _⟩ := h
    omega
  | succ n ih =>
    by_cases hbit : m.getLsbD i = true
    · rw [lowestSetFrom, if_pos hbit]
      exact ⟨by omega, hbit, fun j hij hlt => absurd hlt (Nat.not_lt.mpr hij)⟩
    · rw [lowestSetFrom, if_neg hbit]
      obtain ⟨j, hij, hlt, hj⟩ := h
      have hne : i ≠ j := fun heq => hbit (heq ▸ hj)
      obtain ⟨hbound, hset, hleast⟩ := ih (i := i + 1) ⟨j, by omega, by omega, hj⟩
      refine ⟨by omega, hset, fun k hik hlt => ?_⟩
      rcases Nat.eq_or_lt_of_le hik with rfl | hik
      · exact Bool.eq_false_iff.mpr hbit
      · exact hleast k hik hlt

theorem exists_bit_of_ne_zero {w : Nat} {m : BitVec w} (h : m ≠ 0) : ∃ j, j < w ∧ m.getLsbD j = true := by
  by_contra hnone
  refine h (BitVec.eq_of_getLsbD_eq fun j hj => ?_)
  calc m.getLsbD j = false := Bool.eq_false_iff.mpr fun hset => hnone ⟨j, hj, hset⟩
    _ = (0 : BitVec w).getLsbD j := BitVec.getLsbD_zero.symm

/-! ## The sequencer's turn (rules R170, R173) -/

section
variable {s u : State} {i : Instr}

/-- Between two handlers, with no wait and no submission, the agent whose turn it is is the sequencer at its place. -/
theorem step_of_turn (hturn : turn s u) (hwait : s.seq.wait = none) (hsubmit : s.seq.submit = none)
    (hplace : s.seq.pos.inside = false) : step s = posStep u := by
  have hmid : midHandler s = false := by simp [midHandler, hsubmit, hplace]
  have hblocked : blocked s = false := by simp [blocked, hwait]
  have hseq : seqStep u = posStep u := by
    obtain ⟨_, rfl⟩ | ⟨r, _, rfl⟩ := hturn <;> simp only [seqStep, hwait, hsubmit]
  rw [← hseq]
  obtain ⟨henv, rfl⟩ | ⟨r, henv, rfl⟩ := hturn
  · simp [step, machineStep, hmid, hblocked, henv]
  · simp [step, machineStep, hmid, henv]

/-- The turn consumes at most an input of the list and changes nothing else. -/
theorem turn.eq_env (hturn : turn s u) : u = { s with env := u.env } := by
  obtain ⟨_, rfl⟩ | ⟨r, _, rfl⟩ := hturn <;> rfl

/-! ## The fetch of an instruction (rules R173, R215, R231, R276) -/

theorem expectUsb_of_active {l : LinkState} (h : l = .ready ∨ l = .resume) : expectUsb l = .handle := by
  obtain rfl | rfl := h <;> rfl

theorem runPacket_of_decode {r : Refusal} {p : Packet} (h : decode p = .ok i) : runPacket r p s = exec i s := by
  rw [runPacket, h]

theorem posStep_ctlSetup (hpos : s.seq.pos = .ctlSetup) (hflag : s.ev.ctlSetup = true) :
    posStep s = ctlSetupPhase (goto .ctlData s) := by
  simp only [posStep, hpos, hflag, if_true]

theorem ctlSetupPhase_of_active (hlink : s.link.state = .ready ∨ s.link.state = .resume)
    (hdec : decode (.setup s.ctl.setup) = .ok i) : ctlSetupPhase s = exec i s := by
  rw [ctlSetupPhase, expectUsb_of_active hlink]
  exact runPacket_of_decode hdec

theorem posStep_epServe_bulkOut {m : BitVec 8} (hpos : s.seq.pos = .epServe m) (hlut : epLut m = 2) :
    posStep s = bulkOutHandler (goto (.epClear 2 m) s) := by
  simp only [posStep, hpos, hlut]
  rfl

/-! ## A received CBW (rules R271, R275, R276, R293) -/

theorem bulkOutHandler_of_done (hlink : s.link.state = .ready ∨ s.link.state = .resume) (hcfg : s.usb.config ≠ 0)
    (hdone : s.ctx.state = .done) : bulkOutHandler s = receiveCbw s := by
  have hexp : expectBulkOut s = true := by simpa [expectBulkOut, hdone] using hcfg
  simp only [bulkOutHandler, expectUsb_of_active hlink, hexp, hdone, if_true]

theorem receiveCbw_of_valid (hvalid : CbwValid s) (hdec : decode (.cdb (cbwContext s).cdb) = .ok i) :
    receiveCbw s =
      exec i { s with ctx := cbwContext s, usb := { s.usb with outArmed := .none, outTaken := 0 } } := by
  refine (if_pos ((validCbw_iff s).mpr hvalid)).trans ?_
  rw [latchCbw_eq]
  exact runPacket_of_decode hdec

end

/-! ## The obligations -/

/-- Settles O21: the search from bit 0 over the eight bits. -/
theorem endpointLookup : Obligations.EndpointLookup := by
  refine ⟨lowestSetFrom_of_clear fun j _ _ => BitVec.getLsbD_zero, fun m hm => ?_⟩
  obtain ⟨j, hj, hset⟩ := exists_bit_of_ne_zero hm
  obtain ⟨hbound, hbit, hleast⟩ := lowestSetFrom_of_set (i := 0) (n := 8) ⟨j, Nat.zero_le j, by omega, hset⟩
  exact ⟨by simpa [epLut] using hbound, hbit, fun k => hleast k (Nat.zero_le k)⟩

/-- Settles O6: the setup handler runs with the place moved on, and `READY` and `RESUME` handle control transfers. -/
theorem stepRunsSetup : Obligations.StepRunsSetup := by
  intro s u i hturn hwait hsubmit hpos hflag hlink hdec
  rw [step_of_turn hturn hwait hsubmit (by rw [hpos]; rfl)]
  obtain ⟨e, rfl⟩ : ∃ e, u = { s with env := e } := ⟨_, hturn.eq_env⟩
  calc posStep { s with env := e }
      = ctlSetupPhase (goto .ctlData { s with env := e }) := posStep_ctlSetup hpos hflag
    _ = exec i (goto .ctlData { s with env := e }) := ctlSetupPhase_of_active hlink hdec

/-- Settles O5: endpoint 2 is the bulk-OUT handler's, which in `DONE` latches the valid CBW and runs its CDB. -/
theorem stepRunsCdb : Obligations.StepRunsCdb := by
  intro s u m i hturn hwait hsubmit hpos hlut hlink hcfg hdone hvalid hdec
  rw [step_of_turn hturn hwait hsubmit (by rw [hpos]; rfl)]
  obtain ⟨e, rfl⟩ : ∃ e, u = { s with env := e } := ⟨_, hturn.eq_env⟩
  calc posStep { s with env := e }
      = bulkOutHandler (goto (.epClear 2 m) { s with env := e }) := posStep_epServe_bulkOut hpos hlut
    _ = receiveCbw (goto (.epClear 2 m) { s with env := e }) := bulkOutHandler_of_done hlink hcfg hdone
    _ = _ := receiveCbw_of_valid hvalid hdec

end Sys2Proof.Machine
end

section
/-! Faults of the link machine: what taking a fault does (O19) and the link tick that returns from one (O20). -/

namespace Sys2Proof.Machine

/-! ## Taking a fault (rules R212, R213, R284, R416) -/

theorem beforeCsw_iff (c : CtxState) :
    beforeCsw c = true ↔ c = .receivingCbw ∨ c = .awaitingData ∨ c = .executing ∨ c = .sendingData := by
  cases c <;> decide

/-- A command before its CSW ends with HARDWARE ERROR, its DMA aborted and its slots orphaned. -/
theorem failInFlight_ended {s : State} (h : beforeCsw s.ctx.state = true) :
    Ended (abortDma s) (failInFlight s) { s.ctx with afterCsw := .nothing } senseHardware (orphaned s.nvme) 1 ∧
      Changes s (failInFlight s) inCsw := by
  obtain ⟨hnot, -⟩ | ⟨-, hfail⟩ := failInFlight_cases s
  · exact absurd h (ne_true_of_eq_false hnot)
  · obtain ⟨hended, hcsw⟩ := finish_ended 1 { orphanCtx (abortDma s) with sense := senseHardware }
    have hchanges := finish_changes 1 { orphanCtx (abortDma s) with sense := senseHardware }
    rw [hfail]
    refine ⟨⟨?_, hcsw⟩, hchanges⟩
    rw [hended]
    rfl

theorem raiseFault_of_faulted {s : State} (code : FaultCode) (h : s.link.state = .fault ∨ s.link.state = .recovery) :
    raiseFault code s = endIteration (appendFault code s) := by
  obtain ⟨-, heq⟩ | ⟨⟨hfault, hrecovery⟩, -⟩ := raiseFault_cases code s
  · exact heq
  · exact absurd h (not_or.mpr ⟨hfault, hrecovery⟩)

theorem raiseFault_of_not_faulted {s : State} (code : FaultCode)
    (h : ¬(s.link.state = .fault ∨ s.link.state = .recovery)) :
    raiseFault code s = endIteration (enter .fault (failInFlight (appendFault code s))) := by
  obtain ⟨hfaulted, -⟩ | ⟨-, heq⟩ := raiseFault_cases code s
  · exact absurd hfaulted h
  · exact heq

@[simp] theorem failInFlight_link (s : State) : (failInFlight s).link = s.link := by
  obtain ⟨-, h⟩ | ⟨-, h⟩ := failInFlight_cases s <;> simp [h]
@[simp] theorem failInFlight_faults (s : State) : (failInFlight s).faults = s.faults := by
  obtain ⟨-, h⟩ | ⟨-, h⟩ := failInFlight_cases s <;> simp [h]
@[simp] theorem failInFlight_now (s : State) : (failInFlight s).now = s.now := by
  obtain ⟨-, h⟩ | ⟨-, h⟩ := failInFlight_cases s <;> simp [h]

/-- In every link state the fault is recorded, once. -/
theorem raiseFault_faults (code : FaultCode) (s : State) : (raiseFault code s).faults = recorded s code := by
  obtain ⟨-, h⟩ | ⟨-, h⟩ := raiseFault_cases code s
  · rw [h]
    rfl
  · simp only [h, endIteration_keeps, enter_keeps, failInFlight_faults]
    rfl

theorem raiseFault_seq (code : FaultCode) (s : State) :
    (raiseFault code s).seq = { pos := .top, wait := none, submit := none } := by
  obtain ⟨-, h⟩ | ⟨-, h⟩ := raiseFault_cases code s <;> rw [h] <;> rfl

theorem raiseFault_link {s : State} (code : FaultCode) (h : ¬(s.link.state = .fault ∨ s.link.state = .recovery)) :
    (raiseFault code s).link = { s.link with state := .fault, stateEntry := s.now, timeoutCounter := 0 } := by
  simp [raiseFault_of_not_faulted code h]

/-- Settles O19: the record in every link state; elsewhere than in `FAULT` and `RECOVERY` the command before its CSW ends
and `FAULT` is entered. -/
theorem faultEntry : Obligations.FaultEntry := by
  intro s code
  refine ⟨raiseFault_faults code s, raiseFault_seq code s, ?_⟩
  split
  case isTrue hfaulted =>
    rw [raiseFault_of_faulted code hfaulted]
    rfl
  case isFalse hlink =>
    refine ⟨raiseFault_link code hlink, ?_⟩
    rw [raiseFault_of_not_faulted code hlink]
    split
    case isTrue hcmd =>
      obtain ⟨⟨hended, hcsw⟩, hchanges⟩ := failInFlight_ended (s := appendFault code s) ((beforeCsw_iff _).mpr hcmd)
      refine ⟨⟨?_, hcsw⟩, hchanges⟩
      rw [hended]
      rfl
    case isFalse hcmd =>
      have hkept : failInFlight (appendFault code s) = appendFault code s := if_neg (mt (beforeCsw_iff _).mp hcmd)
      rw [hkept]
      rfl

/-! ## The return from a fault (rules R214, R219, R447, R472) -/

theorem linkTick_fault {s : State} (h : s.link.state = .fault) : linkTick s = tickFault s := by simp only [linkTick, h]

theorem tickFault_of_csw_out {s : State} (h : s.usb.inBusy = .csw ∧ s.now - s.link.stateEntry < Config.tCswFlush) :
    tickFault s = s := if_pos h

theorem tickFault_of_flushed {s : State} (h : ¬(s.usb.inBusy = .csw ∧ s.now - s.link.stateEntry < Config.tCswFlush)) :
    tickFault s = recover s := if_neg h

/-- The link reset register keeps the last byte of the pattern written to it (rule R214). -/
theorem writeLinkReset_of_last {x : BitVec 16 × Byte} (h : Config.linkResetPattern.getLast? = some x) (s : State) :
    (writeLinkReset s).phy.linkReset = x.2 := by
  rw [writeLinkReset, List.getLast?_map, h]
  rfl

theorem writeLinkReset_of_empty (h : Config.linkResetPattern.getLast? = none) (s : State) :
    (writeLinkReset s).phy.linkReset = s.phy.linkReset := by
  rw [writeLinkReset, List.getLast?_map, h]
  rfl

/-- The bytes of the queues are zero again (rules R64, R219). -/
theorem byte_clearQueues_queue {s t : State} (h : t.mem = s.mem.clearQueues) (q : QueueId) (o : Nat) :
    t.byte (.sq q) o = 0 ∧ t.byte (.cq q) o = 0 := by
  simp only [State.byte, memByte, h, Memory.clearQueues, Memory.get_restrict, key_mod, unlisted]
  cases q <;> exact ⟨rfl, rfl⟩

/-- Every byte outside the queues is kept. -/
theorem changes_clearQueues {s t : State} (h : t.mem = s.mem.clearQueues) (hepoch : t.epoch = s.epoch) :
    Changes s t (fun sp _ => ∃ q, sp = .sq q ∨ sp = .cq q) := by
  intro sp o hsp
  have hcode : sp.code < 8 := by
    cases sp with
    | sq q => exact absurd ⟨q, .inl rfl⟩ hsp
    | cq q => exact absurd ⟨q, .inr rfl⟩ hsp
    | reg | ctrlbuf | cswbuf | staging | flash => decide
  simp only [State.byte, hepoch]
  refine memByte_congr ?_
  rw [h, Memory.clearQueues, Memory.get_restrict, key_mod, if_pos (decide_eq_true hcode)]

/-- Settles O20: the CSW may still go out; then the state is `recover`'s, field by field. -/
theorem faultReturn : Obligations.FaultReturn := by
  intro s hfault
  rw [linkTick_fault hfault]
  split
  case isTrue hout => exact tickFault_of_csw_out hout
  case isFalse hflushed =>
    rw [tickFault_of_flushed hflushed]
    have hmem : (recover s).mem = s.mem.clearQueues := rfl
    refine ⟨?_, byte_clearQueues_queue hmem, changes_clearQueues hmem rfl⟩
    split
    case h_1 x hlast =>
      rw [← writeLinkReset_of_last hlast s]
      rfl
    case h_2 hempty =>
      rw [← writeLinkReset_of_empty hempty s]
      rfl

end Sys2Proof.Machine
end

section
/-! What a step does to the link state (rule R190), and that it moves by the table alone (O13). An operation either keeps
the link record, which is an equation (`f_link`), or may take a fault or reset the block (`StaysOrFaults`); the rows of the
table with a trigger of their own belong to the suspend event, the resume event and the link tick. -/

namespace Sys2Proof.Machine

/-! ## Staying, a fault, a reset -/

/-- What the record of a fault and the test for a reset read of a state (rules R212, R471). -/
structure LinkView where
  state : LinkState
  stateEntry : Nat
  now : Nat
  faults : FaultRing
  epoch : Nat

/-- A state as the record of a fault sees it. -/
def State.linkView (s : State) : LinkView :=
  { state := s.link.state, stateEntry := s.link.stateEntry, now := s.now, faults := s.faults, epoch := s.epoch }

/-- From `s` to `t` the link state stays, a fault is taken (rule R212), or the block is reset (rules R470, R471). -/
inductive StaysOrFaults (s t : State) : Prop
  | stays (h : t.link.state = s.link.state)
  | faults (hfrom : s.link.state ≠ .fault ∧ s.link.state ≠ .recovery) (hto : t.link.state = .fault) (code : FaultCode)
      (hrecord : t.faults = recorded s code)
  | resets (hto : t.link.state = .off) (hepoch : t.epoch = s.epoch + 1)

section
variable {s t u : State}

theorem staysOrFaults_of_link (h : t.link = s.link) : StaysOrFaults s t := .stays (congrArg (·.state) h)

theorem recorded_congr (h : u.linkView = s.linkView) (code : FaultCode) : recorded u code = recorded s code := by
  simp only [State.linkView, LinkView.mk.injEq] at h
  obtain ⟨hstate, hentry, hnow, hfaults, -⟩ := h
  simp only [recorded, hstate, hentry, hnow, hfaults]

/-- What comes before the move may change all that a fault's record does not read. -/
theorem StaysOrFaults.after (m : StaysOrFaults u t) (h : u.linkView = s.linkView) : StaysOrFaults s t := by
  have hstate : u.link.state = s.link.state := congrArg (·.state) h
  have hepoch : u.epoch = s.epoch := congrArg (·.epoch) h
  cases m with
  | stays hkept => exact .stays (hkept.trans hstate)
  | faults hfrom hto code hrecord =>
    exact .faults (hstate ▸ hfrom) hto code (hrecord.trans (recorded_congr h code))
  | resets hto hnext => exact .resets hto (hepoch ▸ hnext)

theorem staysOrFaults_powerOn (s : State) : StaysOrFaults s (powerOn s) := .resets rfl rfl

theorem staysOrFaults_raiseFault (code : FaultCode) (s : State) : StaysOrFaults s (raiseFault code s) := by
  by_cases h : s.link.state = .fault ∨ s.link.state = .recovery
  · rw [raiseFault_of_faulted code h]
    exact staysOrFaults_of_link (by simp)
  · exact .faults (not_or.mp h) (congrArg (·.state) (raiseFault_link code h)) code (raiseFault_faults code s)

/-! ## Operations that keep the link record -/

@[simp] theorem link_ite (c : Prop) [Decidable c] (s t : State) :
    (if c then s else t).link = if c then s.link else t.link := apply_ite State.link c s t

@[simp] theorem armCbwIf_link (c : Bool) (s : State) : (armCbwIf c s).link = s.link := by
  cases c <;> rfl
@[simp] theorem botReset_link (s : State) : (botReset s).link = s.link := by
  simp [botReset]
@[simp] theorem callSubmit_link (p : Packet) (o : Owner) (s : State) : (callSubmit p o s).link = s.link := by
  cases p <;> rfl
@[simp] theorem sendBuf_link (s : State) : (sendBuf s).link = s.link := by
  simp [sendBuf]
@[simp] theorem readNextChunk_link (s : State) : (readNextChunk s).link = s.link := by
  simp [readNextChunk]
@[simp] theorem writeNextChunk_link (s : State) : (writeNextChunk s).link = s.link := by
  simp [writeNextChunk]
@[simp] theorem nextOutChunk_link (s : State) : (nextOutChunk s).link = s.link := by
  simp [nextOutChunk]

theorem flashChunk_link {a n : Nat} {after : State → State} (h : flashChunk a n after s = .next t)
    (hafter : ∀ u, (after u).link = u.link) : t.link = s.link := by
  unfold flashChunk at h
  split at h
  · cases h
  · split at h <;> cases h <;> simp [hafter]

theorem chunkExec_link {n : Nat} (h : chunkExec n s = .next t) : t.link = s.link := by
  unfold chunkExec streamChunk at h
  split at h
  · cases h; simp [writeChunk]
  · exact flashChunk_link h fun _ => rfl
  · exact flashChunk_link h fun _ => rfl
  · exact flashChunk_link h fun _ => rfl
  · cases h; rfl

theorem resumeAt_link {r : Resume} (h : resumeAt r s = .next t) : t.link = s.link := by
  cases r with
  | tx n => cases h; simp
  | rx n => exact (chunkExec_link h).trans rfl

/-! ## The other agents and the register bus -/

@[simp] theorem hwChange_link (a : BitVec 16) (v : Byte) (s : State) : (hwChange a v s).link = s.link := by
  unfold hwChange
  split <;> rfl

@[simp] theorem dmaStep_link (k : Nat) (s : State) : (dmaStep k s).link = s.link := by
  unfold dmaStep
  cases s.dma.dir <;> simp [dmaCheckDone]

@[simp] theorem offerBulkOut_link (b : Bytes) (s : State) : (offerBulkOut b s).link = s.link := by
  unfold offerBulkOut
  cases s.usb.outArmed <;> simp

/-- The other agents raise events and drive levels; the link state is the sequencer's. -/
theorem staysOrFaults_agentStep (i : Input) (s : State) : StaysOrFaults s (agentStep i s) := by
  cases i with
  | powerOn => exact staysOrFaults_powerOn s
  | setup b => exact staysOrFaults_of_link (by simp [agentStep, takeSetup])
  | ctlData | ctlStatus =>
    exact staysOrFaults_of_link (by simp [agentStep, whenConnected, raiseCtlData, raiseCtlStatus])
  | busReset | suspend | resume => exact staysOrFaults_of_link (by simp [agentStep, whenConnected])
  | bulkOut b => exact staysOrFaults_of_link (offerBulkOut_link b s)
  | bulkIn n => exact staysOrFaults_of_link (by simp [agentStep, takeBulkIn])
  | dma k => exact staysOrFaults_of_link (dmaStep_link k s)
  | regChange a v => exact staysOrFaults_of_link (hwChange_link a v s)
  | _ => exact staysOrFaults_of_link rfl

/-- A bus write that does not reset the block (rule R471) leaves the link record alone. -/
theorem regWrite_link {a : BitVec 16} {v : Byte} (h : writeResets a v = false) (s : State) :
    (regWrite a v s).link = s.link := by
  unfold regWrite
  cases ht : target a with
  | role r =>
    cases r with
    | cpuReset =>
      have hv : v ≠ Config.resetMagic := by simpa [writeResets, ht] using h
      simp [roleWrite, hv]
    | usbEpStall => simp [roleWrite, setHaltIn, setHaltOut]
    | dmaStart => simp [roleWrite]
    | _ => rfl
  | ring | plain => rfl

@[simp] theorem regBlock_link (n : Nat) (a : BitVec 16) (o : Nat) (s : State) : (regBlock n a o s).link = s.link := by
  induction n generalizing a o s with
  | zero => rfl
  | succ n ih => exact ih _ _ _

/-! ## The NVMe engine -/

@[simp] theorem initStep_link (st : InitStep) (cmd : Instr) (s : State) : (initStep st cmd s).link = s.link := by
  simp [initStep]
@[simp] theorem initNamespace_link (s : State) : (initNamespace s).link = s.link := by
  simp [initNamespace]
@[simp] theorem initOk_link (s : State) : (initOk s).link = s.link := by
  unfold initOk
  cases s.nvme.init <;> simp
@[simp] theorem deliverCtx_link (st : BitVec 15) (s : State) : (deliverCtx st s).link = s.link := by
  simp [deliverCtx]

/-- A failed bring-up is recorded in the fault ring, but it is no fault of the link (rule R395). -/
@[simp] theorem deliver_link (i : Nat) (st : BitVec 15) (s : State) : (deliver i st s).link = s.link := by
  unfold deliver
  cases (s.nvme.slot i).owner <;> simp

@[simp] theorem noSlot_link (o : Owner) (s : State) : (noSlot s o).link = s.link := by
  cases o <;> simp [noSlot]

@[simp] theorem submit_link (p : Packet) (s : State) : (submit p s).link = s.link := by
  cases p with
  | sqe q e => obtain ⟨-, h⟩ | ⟨i, -, h⟩ := submit_cases q e s <;> simp [h]
  | cdb | setup => rfl

/-- Only a command of the context whose retries are used up is a fault (rules R386, R387). -/
theorem staysOrFaults_settle (i : Nat) (st : BitVec 15) (s : State) : StaysOrFaults s (settle i st s) := by
  unfold settle
  simp only
  split
  · exact staysOrFaults_of_link (deliver_link i st s)
  · split
    · exact staysOrFaults_of_link (by simp)
    · split
      · exact (staysOrFaults_raiseFault _ _).after rfl
      · exact staysOrFaults_of_link (deliver_link i st s)
      · exact staysOrFaults_of_link (deliver_link i st s)

theorem staysOrFaults_complete (q : QueueId) (e : Bytes) (s : State) : StaysOrFaults s (complete q e s) := by
  unfold complete
  split
  · exact staysOrFaults_raiseFault _ s
  · exact (staysOrFaults_settle _ _ _).after rfl

theorem staysOrFaults_pollTurn (q : QueueId) (fromTick : Bool) (s : State) :
    StaysOrFaults s (pollTurn q fromTick s) := by
  unfold pollTurn
  split
  · exact (staysOrFaults_complete q _ _).after rfl
  · cases q <;> exact staysOrFaults_of_link rfl

theorem staysOrFaults_slotTimeout (i : Nat) (s : State) : StaysOrFaults s (slotTimeout i s) := by
  unfold slotTimeout
  cases (s.nvme.slot i).owner with
  | ctx => exact (staysOrFaults_raiseFault _ _).after rfl
  | init | none => exact staysOrFaults_of_link (by simp)

theorem staysOrFaults_timeoutTurn (i : Nat) (s : State) : StaysOrFaults s (timeoutTurn i s) := by
  unfold timeoutTurn
  simp only
  split_ifs
  · exact staysOrFaults_of_link rfl
  · exact (staysOrFaults_slotTimeout i _).after rfl
  · exact staysOrFaults_of_link rfl

/-! ## The instructions -/

theorem staysOrFaults_runCdb {body : State → State} (hbody : ∀ u, StaysOrFaults u (body u)) (dir : Dir)
    (len : BitVec 64) (s : State) : StaysOrFaults s (runCdb dir len body s) := by
  obtain h | h := runCdb_cases dir len body s <;> rw [h]
  · exact staysOrFaults_of_link (by simp)
  · exact (hbody _).after rfl

@[simp] theorem runCdb_link {body : State → State} (hbody : ∀ u, (body u).link = u.link) (dir : Dir) (len : BitVec 64)
    (s : State) : (runCdb dir len body s).link = s.link := by
  obtain h | h := runCdb_cases dir len body s <;> rw [h]
  · simp
  · rw [hbody]

@[simp] theorem runMedium_link {body : State → State} (hbody : ∀ u, (body u).link = u.link) (dir : Dir)
    (lba : BitVec 32) (blocks : BitVec 16) (s : State) : (runMedium dir lba blocks body s).link = s.link := by
  simp [runMedium, hbody]

@[simp] theorem sendFlash_link (a n : Nat) (s : State) : (sendFlash a n s).link = s.link := by
  simp [sendFlash]
@[simp] theorem runStream_link (p : FwPart) (length : BitVec 32) (s : State) : (runStream p length s).link = s.link := by
  simp [runStream]
@[simp] theorem runAdmin_link (opc : Byte) (rest : BitVec 112) (cmd : Instr) (s : State) :
    (runAdmin opc rest cmd s).link = s.link := by
  simp [runAdmin]
@[simp] theorem finishThen_link (a : AfterCsw) (s : State) : (finishThen a s).link = s.link := by
  simp [finishThen]
@[simp] theorem ctlReply_link (reply : Bytes) (wLength : BitVec 16) (s : State) :
    (ctlReply reply wLength s).link = s.link := by
  simp [ctlReply]
@[simp] theorem setConfig_link (c : BitVec 8) (s : State) : (setConfig c s).link = s.link := by
  simp [setConfig]

theorem clearHalt_link {wIndex : BitVec 16} (h : clearHalt wIndex s = some t) : t.link = s.link := by
  unfold clearHalt at h
  split_ifs at h <;> cases h <;> simp

theorem staysOrFaults_registerWrite (a : BitVec 16) (v : Byte) (s : State) :
    StaysOrFaults s (if writeResets a v then powerOn s else finish 0 (regWrite a v s)) := by
  split
  case isTrue => exact staysOrFaults_powerOn s
  case isFalse h =>
    rw [Bool.not_eq_true] at h
    exact staysOrFaults_of_link (by simp [regWrite_link h])

/-- No instruction moves the link but the register write that resets the block (rule R471). -/
theorem staysOrFaults_exec {i : Instr} (h : exec i s = .next t) : StaysOrFaults s t := by
  cases i with
  | vendorE5 value addr =>
    cases h
    split
    · exact staysOrFaults_of_link (by simp)
    · exact staysOrFaults_runCdb (staysOrFaults_registerWrite _ value) _ _ s
  | clearFeature wValue wIndex wLength =>
    cases h
    split
    · exact staysOrFaults_of_link (by simp)
    · split
      · rename_i hclear
        exact staysOrFaults_of_link (by simp [clearHalt_link hclear])
      · exact staysOrFaults_of_link (by simp)
  | getDescriptor type index wIndex wLength =>
    cases h
    split <;> exact staysOrFaults_of_link (by simp)
  | _ =>
    cases h
    exact staysOrFaults_of_link (by simp)

theorem staysOrFaults_runPacket {r : Refusal} {p : Packet} (h : runPacket r p s = .next t) : StaysOrFaults s t := by
  unfold runPacket at h
  split at h
  · exact staysOrFaults_exec h
  · cases h

/-! ## The event handlers -/

theorem staysOrFaults_waitStep {w : Wait} (h : waitStep w s = .next t) : StaysOrFaults s t := by
  unfold waitStep at h
  simp only at h
  split_ifs at h
  · exact staysOrFaults_of_link ((resumeAt_link h).trans rfl)
  · cases h; exact (staysOrFaults_raiseFault _ _).after rfl
  · cases h; exact staysOrFaults_of_link rfl

/-- The cancelled command ends before the fault is recorded (rule R184). -/
theorem cancelCtx_linkView (s : State) : (cancelCtx s).linkView = s.linkView := by
  unfold cancelCtx
  split
  · rfl
  · simp only [State.linkView]
    split <;> rfl

theorem staysOrFaults_cancel (s : State) : StaysOrFaults s (cancel s) :=
  (staysOrFaults_raiseFault _ _).after (cancelCtx_linkView _)

@[simp] theorem clearUsb_linkState (s : State) : (clearUsb s).link.state = s.link.state := rfl

theorem staysOrFaults_busReset (s : State) : StaysOrFaults s (busReset s) := by
  unfold busReset
  cases h : s.link.state <;> exact .stays (by simp [h])

theorem staysOrFaults_ctlSetupPhase (h : ctlSetupPhase s = .next t) : StaysOrFaults s t := by
  unfold ctlSetupPhase at h
  split at h
  · exact staysOrFaults_runPacket h
  · cases h; exact staysOrFaults_of_link rfl
  · cases h; exact staysOrFaults_raiseFault _ s

theorem staysOrFaults_ctlDataPhase (s : State) : StaysOrFaults s (ctlDataPhase s) := by
  unfold ctlDataPhase
  split
  · split
    · exact staysOrFaults_of_link rfl
    · exact staysOrFaults_raiseFault _ s
  · exact staysOrFaults_of_link rfl
  · exact staysOrFaults_raiseFault _ s

@[simp] theorem adoptAddress_linkState (s : State) : (adoptAddress s).link.state = s.link.state := by
  unfold adoptAddress
  cases s.ctl.pendingAddress <;> rfl

@[simp] theorem ctlFinish_linkState (s : State) : (ctlFinish s).link.state = s.link.state := by
  unfold ctlFinish
  simp only
  split <;> simp

theorem staysOrFaults_ctlStatusPhase (s : State) : StaysOrFaults s (ctlStatusPhase s) := by
  unfold ctlStatusPhase
  split
  · split
    · exact .stays (ctlFinish_linkState s)
    · exact staysOrFaults_raiseFault _ s
  · exact staysOrFaults_of_link rfl
  · exact staysOrFaults_raiseFault _ s

theorem staysOrFaults_receiveCbw (h : receiveCbw s = .next t) : StaysOrFaults s t := by
  unfold receiveCbw at h
  simp only at h
  split at h
  · exact (staysOrFaults_runPacket h).after rfl
  · cases h; exact staysOrFaults_of_link (by simp)

theorem staysOrFaults_bulkOutHandler (h : bulkOutHandler s = .next t) : StaysOrFaults s t := by
  unfold bulkOutHandler at h
  split at h
  · split_ifs at h
    · exact staysOrFaults_receiveCbw h
    · cases h; exact staysOrFaults_of_link rfl
    · cases h; exact staysOrFaults_raiseFault _ s
  · cases h; exact staysOrFaults_of_link rfl
  · cases h; exact staysOrFaults_raiseFault _ s

/-- What follows the CSW may reset the block, or take the fault that re-enumerates it (rules R289, R356 to R358). -/
theorem staysOrFaults_cswAck (s : State) : StaysOrFaults s (cswAck s) := by
  unfold cswAck
  simp only
  cases s.ctx.afterCsw with
  | nothing | haltBoth => exact staysOrFaults_of_link (by simp)
  | hardReset | commitReset => exact (staysOrFaults_powerOn _).after rfl
  | reenumerate => exact (staysOrFaults_raiseFault _ _).after rfl

@[simp] theorem dataAck_link (s : State) : (dataAck s).link = s.link := by
  simp [dataAck]

theorem staysOrFaults_bulkInHandler (s : State) : StaysOrFaults s (bulkInHandler s) := by
  unfold bulkInHandler
  split
  · split_ifs
    · exact staysOrFaults_cswAck s
    · exact staysOrFaults_of_link (dataAck_link s)
    · exact staysOrFaults_raiseFault _ s
  · split_ifs
    · exact staysOrFaults_cswAck s
    · exact staysOrFaults_of_link rfl
  · exact staysOrFaults_raiseFault _ s

theorem staysOrFaults_epHandler {i : Nat} (h : epHandler i s = .next t) : StaysOrFaults s t := by
  unfold epHandler at h
  split_ifs at h
  · cases h; exact staysOrFaults_bulkInHandler s
  · exact staysOrFaults_bulkOutHandler h
  · cases h; exact staysOrFaults_of_link rfl

theorem staysOrFaults_linkChange (s : State) : StaysOrFaults s (linkChange s) := by
  unfold linkChange
  simp only
  split
  · exact (staysOrFaults_raiseFault _ _).after rfl
  · exact staysOrFaults_of_link rfl

theorem staysOrFaults_hwError (s : State) : StaysOrFaults s (hwError s) := by
  unfold hwError
  simp only
  cases s.link.state with
  | off | fault | recovery => exact staysOrFaults_of_link rfl
  | phyInit | linkTrain | tunnelCfg | ready | suspend | resume => exact (staysOrFaults_raiseFault _ _).after rfl

theorem staysOrFaults_cqeEvent (s : State) : StaysOrFaults s (cqeEvent s) := by
  unfold cqeEvent
  simp only
  split
  · exact staysOrFaults_of_link rfl
  · exact staysOrFaults_of_link rfl
  · exact (staysOrFaults_raiseFault _ _).after rfl

/-! ## The rows of the table with a trigger of their own (rule R190) -/

/-- What a step does to the link state: nothing, a row of the table on its trigger, or a reset. -/
def LinkStep (s t : State) : Prop :=
  t.link.state = s.link.state ∨ LinkMove s t ∨ (t.link.state = .off ∧ t.epoch = s.epoch + 1)

theorem StaysOrFaults.linkStep (m : StaysOrFaults s t) : LinkStep s t := by
  cases m with
  | stays hkept => exact .inl hkept
  | faults hfrom hto code hrecord => exact .inr (.inl (by simp [LinkMove, hfrom, hto, hrecord]))
  | resets hto hepoch => exact .inr (.inr ⟨hto, hepoch⟩)

/-- The sequencer's place is not among what the triggers depend on. -/
theorem linkStep_goto {p : Pos} : LinkStep (goto p s) t ↔ LinkStep s t := Iff.rfl

/-- Nor are the inputs that wait. -/
theorem linkStep_env {r : List Input} : LinkStep { s with env := r } t ↔ LinkStep s t := Iff.rfl

/-- `READY` to `SUSPEND` (rules R204, R205). -/
theorem linkStep_usbSuspend (hevent : s.ev.usbSuspend = true) : LinkStep s (usbSuspend s) := by
  unfold usbSuspend
  split_ifs with hready hquiet
  · exact .inr (.inl (by simp [LinkMove, enterSuspend, hready, hevent, hquiet]))
  · exact .inl rfl
  · exact .inl rfl

/-- `SUSPEND` to `RESUME` (rule R207). -/
theorem linkStep_usbResume (hevent : s.ev.usbResume = true) : LinkStep s (usbResume s) := by
  unfold usbResume
  simp only
  split
  case isTrue hsuspend => exact .inr (.inl (by simp [LinkMove, hsuspend, hevent]))
  case isFalse => exact .inl rfl

/-- `PHY_INIT` to `LINK_TRAIN`; a time-out opens a new window in `PHY_INIT`, and the last one is a fault (rules R195 to
R197). -/
theorem linkStep_tickPhyInit (hlink : s.link.state = .phyInit) : LinkStep s (tickPhyInit s) := by
  unfold tickPhyInit phyTimeout
  simp only
  split_ifs with hready hlate hlast
  · exact .inr (.inl (by simp [LinkMove, phyReady, hlink, hready]))
  · exact ((staysOrFaults_raiseFault _ _).after rfl).linkStep
  · exact .inl hlink.symm
  · exact .inl rfl

/-- `LINK_TRAIN` to `TUNNEL_CFG` (rules R199, R200). -/
theorem linkStep_tickLinkTrain (hlink : s.link.state = .linkTrain) : LinkStep s (tickLinkTrain s) := by
  unfold tickLinkTrain
  split_ifs with hcomplete hlate
  · exact .inr (.inl (by simp [LinkMove, hlink, hcomplete]))
  · exact (staysOrFaults_raiseFault _ s).linkStep
  · exact .inl rfl

/-- `TUNNEL_CFG` to `READY`, once the bring-up of the engine has ended (rules R201, R202). -/
theorem linkStep_tickTunnelCfg (hlink : s.link.state = .tunnelCfg) : LinkStep s (tickTunnelCfg s) := by
  unfold tickTunnelCfg
  cases hinit : s.nvme.init with
  | done | failed => exact .inr (.inl (by simp [LinkMove, hlink, hinit]))
  | idle => exact .inl rfl
  | idCtrl | idNs | createCq | createSq => exact .inl rfl

/-- `RESUME` to `READY` (rules R208, R209). -/
theorem linkStep_tickResume (hlink : s.link.state = .resume) : LinkStep s (tickResume s) := by
  unfold tickResume
  split_ifs with hclocks hlate
  · exact .inr (.inl (by simp [LinkMove, hlink, hclocks]))
  · exact (staysOrFaults_raiseFault _ s).linkStep
  · exact .inl rfl

@[simp] theorem recover_linkState (s : State) : (recover s).link.state = .phyInit := rfl

/-- `FAULT` to `PHY_INIT`, through `RECOVERY` (rule R214). -/
theorem linkStep_tickFault (hlink : s.link.state = .fault) : LinkStep s (tickFault s) := by
  unfold tickFault
  split
  case isTrue => exact .inl rfl
  case isFalse hflushed => exact .inr (.inl (by simpa [LinkMove, hlink, inState] using hflushed))

theorem linkStep_linkTick (s : State) : LinkStep s (linkTick s) := by
  unfold linkTick
  cases hlink : s.link.state with
  | off => exact .inr (.inl (.inl ⟨hlink, rfl⟩))
  | phyInit => exact linkStep_tickPhyInit hlink
  | linkTrain => exact linkStep_tickLinkTrain hlink
  | tunnelCfg => exact linkStep_tickTunnelCfg hlink
  | ready | suspend => exact .inl rfl
  | resume => exact linkStep_tickResume hlink
  | fault => exact linkStep_tickFault hlink
  | recovery => exact .inr (.inl (by simp [LinkMove, hlink]))

/-! ## The loop iteration and the step -/

/-- A handler that runs only on its event. -/
theorem linkStep_unlessFlag {flag : Bool} {f : State → State} (p : Pos)
    (h : flag = true → LinkStep (goto p s) (f (goto p s))) : LinkStep s (unlessFlag flag f (goto p s)) := by
  unfold unlessFlag
  split
  case isTrue hflag => exact linkStep_goto.mp (h hflag)
  case isFalse => exact .inl rfl

theorem linkStep_posStep (h : posStep s = .next t) : LinkStep s t := by
  cases hpos : s.seq.pos <;> simp only [posStep, hpos] at h
  case top =>
    cases h
    split
    · exact (staysOrFaults_cancel s).linkStep
    · exact .inl rfl
  case busReset => cases h; exact linkStep_unlessFlag _ fun _ => (staysOrFaults_busReset _).linkStep
  case ctlSetup =>
    split at h
    · exact linkStep_goto.mp (staysOrFaults_ctlSetupPhase h).linkStep
    · cases h; exact .inl rfl
  case ctlData => cases h; exact linkStep_unlessFlag _ fun _ => (staysOrFaults_ctlDataPhase _).linkStep
  case epScan => cases h; split <;> exact .inl rfl
  case epServe m =>
    split at h
    · cases h; exact .inl rfl
    · exact linkStep_goto.mp (staysOrFaults_epHandler h).linkStep
  case epClear i m => cases h; exact .inl rfl
  case ctlStatus => cases h; exact linkStep_unlessFlag _ fun _ => (staysOrFaults_ctlStatusPhase _).linkStep
  case sysLink => cases h; exact linkStep_unlessFlag _ fun _ => (staysOrFaults_linkChange _).linkStep
  case sysCqe => cases h; exact linkStep_unlessFlag _ fun _ => (staysOrFaults_cqeEvent _).linkStep
  case sysError => cases h; exact linkStep_unlessFlag _ fun _ => (staysOrFaults_hwError _).linkStep
  case suspend => cases h; exact linkStep_unlessFlag _ fun hevent => linkStep_usbSuspend hevent
  case resume => cases h; exact linkStep_unlessFlag _ fun hevent => linkStep_usbResume hevent
  case periodic => cases h; split <;> exact .inl rfl
  case timeouts i => cases h; exact (staysOrFaults_timeoutTurn i s).linkStep
  case poll q fromTick => cases h; exact (staysOrFaults_pollTurn q fromTick s).linkStep
  case linkTick => cases h; exact linkStep_goto.mp (linkStep_linkTick _)

theorem linkStep_seqStep (h : seqStep s = .next t) : LinkStep s t := by
  obtain ⟨w, -, hw⟩ | ⟨-, r, i, -, -, hi⟩ | ⟨-, -, hp⟩ := seqStep_cases h
  · exact (staysOrFaults_waitStep hw).linkStep
  · exact (staysOrFaults_exec hi).linkStep
  · exact linkStep_posStep hp

theorem linkStep_step (h : step s = .next t) : LinkStep s t := by
  obtain ⟨u, hu, hseq⟩ | ⟨i, r, -, rfl⟩ | ⟨-, rfl⟩ := step_cases h
  · obtain rfl | ⟨r, -, rfl⟩ := hu
    · exact linkStep_seqStep hseq
    · exact linkStep_env.mp (linkStep_seqStep hseq)
  · exact linkStep_env.mp (staysOrFaults_agentStep i _).linkStep
  · exact .inl (by simp)

end

/-- Settles O13: every handler keeps the link state, takes a fault or resets the block, but the suspend event, the resume
event and the link tick, which take the other rows on their triggers. -/
theorem linkTransitions : Obligations.LinkTransitions := fun _ _ => linkStep_step

end Sys2Proof.Machine
end

section
/-! The USB device core: what a control request does in its setup phase (O45 to O48) and in its data and status phases
(O49), and the bus and system events outside the commands (O24). -/

namespace Sys2Proof.Machine

/-! ## How a setup handler ends (rules R231, R236) -/

section
variable {s : State}

theorem ep0Stall_stalled0 (s : State) : Stalled0 s (ep0Stall s) := rfl

/-- A reply is kept for the data phase; with `wLength` 0 there is none and the status phase is next. -/
theorem ctlReply_replied (reply : Bytes) (wLength : BitVec 16) (s : State) :
    Replied s (ctlReply reply wLength s) reply wLength := by
  unfold Replied ctlReply ctlAccept
  by_cases h : wLength = 0
  · subst h
    rfl
  · have hdata : (true && wLength != 0) = true := by simpa using h
    rw [if_pos hdata, if_neg h]
    rfl

/-- The request whose effect is `u` is accepted; the record of an earlier transfer is cleared before that. -/
theorem ctlAccept_accepted (wLength : BitVec 16) (u : State) :
    Accepted u (ctlAccept false wLength (ctlBegin u)) none .none := rfl

/-- A request is accepted that owes the address `a` or the action `p` at its status phase. -/
theorem ctlAccept_accepted_owing (wLength : BitVec 16) (s : State) (a : Option (BitVec 7)) (p : PendingAction) :
    Accepted s (ctlAccept false wLength
      { ctlBegin s with ctl := { (ctlBegin s).ctl with pendingAddress := a, pendingAction := p } }) a p := rfl

/-! ## The two halts and the configuration (rules R242, R244, R255) -/

theorem armCbwIf_of_iff {ok : Bool} {p : Prop} [Decidable p] (h : ok = true ↔ p) (s : State) :
    armCbwIf ok s = if p then armOut .cbw s else s := if_congr h rfl rfl

/-- Arming for a CBW and beginning a transfer touch different records. -/
theorem armCbwIf_ctlBegin (ok : Bool) (s : State) : armCbwIf ok (ctlBegin s) = ctlBegin (armCbwIf ok s) := by
  cases ok <;> rfl

theorem clearHalt_in (s : State) :
    clearHalt 0x0081 s =
      some { s with usb := { s.usb with haltIn := s.usb.haltIn && s.usb.botResetRequired } } := by
  refine (if_pos rfl).trans (congrArg some ?_)
  by_cases howed : s.usb.botResetRequired = true
  · rw [if_pos howed, howed, Bool.and_true]
  · rw [if_neg howed, Bool.eq_false_iff.mpr howed, Bool.and_false]

theorem clearHalt_out (s : State) :
    clearHalt 0x0002 s =
      some (if s.usb.botResetRequired then s
        else if s.usb.config = 1 ∧ s.ctx.state = .done then
          { s with usb := { s.usb with haltOut := false, outArmed := .cbw, outTaken := 0 } }
        else { s with usb := { s.usb with haltOut := false } }) := by
  refine ((if_neg (by decide)).trans (if_pos rfl)).trans (congrArg some ?_)
  rw [armCbwIf_of_iff (p := s.usb.config = 1 ∧ s.ctx.state = .done) (by simp)]
  rfl

theorem clearHalt_ep0 {i : BitVec 16} (h : i = 0x0000 ∨ i = 0x0080) (s : State) : clearHalt i s = some s := by
  obtain rfl | rfl := h <;> rfl

theorem clearHalt_unknown {i : BitVec 16} (hin : i ≠ 0x0081) (hout : i ≠ 0x0002) (h0 : ¬(i = 0x0000 ∨ i = 0x0080))
    (s : State) : clearHalt i s = none := by
  rw [clearHalt, if_neg hin, if_neg hout, if_neg h0]

theorem clearHalt_ctlBegin (i : BitVec 16) (s : State) :
    clearHalt i (ctlBegin s) = (clearHalt i s).map ctlBegin := by
  by_cases hin : i = 0x0081
  · subst hin
    rw [clearHalt_in, clearHalt_in]
    rfl
  by_cases hout : i = 0x0002
  · subst hout
    rw [clearHalt_out, clearHalt_out, Option.map_some, apply_ite ctlBegin, apply_ite ctlBegin]
    rfl
  by_cases h0 : i = 0x0000 ∨ i = 0x0080
  · rw [clearHalt_ep0 h0, clearHalt_ep0 h0]
    rfl
  · rw [clearHalt_unknown hin hout h0, clearHalt_unknown hin hout h0]
    rfl

/-- The request with a selector and length of 0 ends as its endpoint decides. -/
theorem execClearFeature_of_zero {v i l : BitVec 16} (h : ¬(v ≠ 0 ∨ l ≠ 0)) (s : State) :
    execClearFeature v i l s =
      .next (((clearHalt i s).map fun u => ctlAccept false l (ctlBegin u)).getD (ep0Stall s)) := by
  rw [execClearFeature, if_neg h, clearHalt_ctlBegin]
  cases clearHalt i s <;> rfl

/-- The device record with configuration `c` stored and the halts cleared, unless a BOT reset is required. -/
def Usb.configured (c : BitVec 8) (u : Usb) : Usb :=
  { u with config := c, haltIn := u.haltIn && u.botResetRequired, haltOut := u.haltOut && u.botResetRequired }

theorem setConfig_zero (s : State) :
    setConfig 0 s = { s with usb := { s.usb.configured 0 with outArmed := .none, outTaken := 0 } } := rfl

theorem setConfig_of_nonzero {c : BitVec 8} (h : c ≠ 0) (s : State) :
    setConfig c s = armCbwIf (c == 1 && s.ctx.state == .done && !(s.usb.configured c).haltOut)
      { s with usb := s.usb.configured c } := if_neg h

theorem setConfig_one (s : State) :
    setConfig 1 s =
      { s with usb :=
          if s.ctx.state = .done ∧ (s.usb.configured 1).haltOut = false then
            { s.usb.configured 1 with outArmed := .cbw, outTaken := 0 }
          else s.usb.configured 1 } := by
  rw [setConfig_of_nonzero (by decide),
    armCbwIf_of_iff (p := s.ctx.state = .done ∧ (s.usb.configured 1).haltOut = false) (by simp)]
  by_cases harm : s.ctx.state = .done ∧ (s.usb.configured 1).haltOut = false
  · rw [if_pos harm, if_pos harm]
    rfl
  · rw [if_neg harm, if_neg harm]

theorem setConfig_ctlBegin (c : BitVec 8) (s : State) : setConfig c (ctlBegin s) = ctlBegin (setConfig c s) := by
  by_cases hc : c = 0
  · subst hc
    rfl
  · rw [setConfig_of_nonzero hc, setConfig_of_nonzero hc]
    exact armCbwIf_ctlBegin _ { s with usb := s.usb.configured c }

/-! ## The descriptors (rules R133 to R138, R237) -/

/-- A device-to-host request with reply `r` is answered, or endpoint 0 stalls where there is no reply. -/
def RepliedOrStalled (s t : State) (wLength : BitVec 16) : Option Bytes → Prop
  | some r => Replied s t r wLength
  | none => Stalled0 s t

theorem execGetDescriptor_repliedOrStalled (type index : Byte) (i l : BitVec 16) (s : State) :
    ∃ t, execGetDescriptor type index i l s = .next t ∧ RepliedOrStalled s t l (descriptorReply type index) := by
  unfold execGetDescriptor
  cases descriptorReply type index with
  | none => exact ⟨_, rfl, ep0Stall_stalled0 s⟩
  | some r => exact ⟨_, rfl, ctlReply_replied r l s⟩

/-! ## The phases of a transfer (rules R232, R233, R238, R241, R255) -/

theorem ctlDataPhase_of_active (hlink : s.link.state = .ready ∨ s.link.state = .resume) :
    ctlDataPhase s =
      if s.ctl.phase = .data then
        { s with
          ctl := { s.ctl with ep0In := s.ctl.reply.take (setupLength s), phase := .status }
          ev := { s.ev with ctlData := false } }
      else raiseFault .unexpectedEvent s := by
  rw [ctlDataPhase, expectUsb_of_active hlink]

theorem ctlStatusPhase_of_active (hlink : s.link.state = .ready ∨ s.link.state = .resume) :
    ctlStatusPhase s = if s.ctl.phase = .status then ctlFinish s else raiseFault .unexpectedEvent s := by
  rw [ctlStatusPhase, expectUsb_of_active hlink]

theorem adoptAddress_eq (s : State) :
    adoptAddress s =
      { s with
        usb := { s.usb with address := s.ctl.pendingAddress.getD s.usb.address }
        link := { s.link with usbEnumerated := s.link.usbEnumerated || s.ctl.pendingAddress.isSome } } := by
  unfold adoptAddress
  cases s.ctl.pendingAddress with
  | none => rw [Option.isSome_none, Bool.or_false]; rfl
  | some a => rw [Option.isSome_some, Bool.or_true]; rfl

/-- The BOT reset drops the context and the bulk transfers, and asks for a CBW where bulk-OUT takes one. -/
theorem botReset_eq (s : State) :
    botReset s =
      { dropContext s with
        usb := { s.usb with
          botResetRequired := false, inBusy := .none, outTaken := 0
          outArmed := if s.usb.config = 1 ∧ s.usb.haltOut = false then .cbw else .none }
        usbIn := [], usbOut := [] } := by
  have hreset : botReset s = armCbwIf (s.usb.config == 1 && !s.usb.haltOut)
      { dropContext s with
        usb := { s.usb with botResetRequired := false, inBusy := .none, outArmed := .none, outTaken := 0 }
        usbIn := [], usbOut := [] } := rfl
  rw [hreset, armCbwIf_of_iff (p := s.usb.config = 1 ∧ s.usb.haltOut = false) (by simp)]
  by_cases harm : s.usb.config = 1 ∧ s.usb.haltOut = false
  · rw [if_pos harm, if_pos harm]
    rfl
  · rw [if_neg harm, if_neg harm]

/-- The transfer is over and its status flag acknowledged. -/
def transferDone (s : State) : State :=
  { s with
    ctl := { s.ctl with pendingAddress := none, pendingAction := .none, phase := .idle }
    ev := { s.ev with ctlStatus := false } }

theorem ctlFinish_of_none (h : s.ctl.pendingAction = .none) : ctlFinish s = transferDone (adoptAddress s) := by
  rw [ctlFinish, h]
  rfl

theorem ctlFinish_of_botReset (h : s.ctl.pendingAction = .botReset) :
    ctlFinish s = transferDone (botReset (adoptAddress s)) := by
  rw [ctlFinish, h]
  rfl

/-! ## Bus reset and system events (rules R210, R211, R259, R260) -/

theorem busReset_of_active (h : s.link.state = .ready ∨ s.link.state = .resume) :
    busReset s = clearUsb { s with ev := { s.ev with usbBusReset := false } } := by
  obtain h | h := h <;> simp only [busReset, h]

theorem busReset_of_suspend (h : s.link.state = .suspend) :
    busReset s =
      { clearUsb { s with ev := { s.ev with usbBusReset := false } } with
        ev := { (clearUsb { s with ev := { s.ev with usbBusReset := false } }).ev with usbResume := true } } := by
  simp only [busReset, h]

theorem busReset_of_other (hready : s.link.state ≠ .ready) (hresume : s.link.state ≠ .resume)
    (hsuspend : s.link.state ≠ .suspend) : busReset s = { s with ev := { s.ev with usbBusReset := false } } := by
  cases h : s.link.state with
  | ready => exact absurd h hready
  | resume => exact absurd h hresume
  | suspend => exact absurd h hsuspend
  | off | phyInit | linkTrain | tunnelCfg | fault | recovery => simp only [busReset, h]

theorem linkDownFaults_iff (l : LinkState) :
    linkDownFaults l = true ↔ l = .tunnelCfg ∨ l = .ready ∨ l = .suspend ∨ l = .resume := by
  cases l <;> decide

theorem hwError_of_quiet (h : s.link.state = .off ∨ s.link.state = .fault ∨ s.link.state = .recovery) :
    hwError s = { s with ev := { s.ev with sysError := false } } := by
  obtain h | h | h := h <;> simp only [hwError, h]

theorem hwError_of_running (h : ¬(s.link.state = .off ∨ s.link.state = .fault ∨ s.link.state = .recovery)) :
    hwError s = raiseFault .hwError { s with ev := { s.ev with sysError := false } } := by
  cases hl : s.link.state with
  | off => exact absurd (.inl hl) h
  | fault => exact absurd (.inr (.inl hl)) h
  | recovery => exact absurd (.inr (.inr hl)) h
  | phyInit | linkTrain | tunnelCfg | ready | suspend | resume => simp only [hwError, hl]

/-! ## The reset request (rule R184) -/

/-- The command in flight is aborted, with phase error as its status. -/
def cancelled (s : State) : State :=
  { orphanCtx (abortDma s) with ctx := { s.ctx with status := 2 } }

/-- The context is stalled, bulk-OUT halted and a BOT reset owed, with bulk-IN to be halted after the CSW. -/
def stalledOut (s : State) : State :=
  { s with
    ctx := { s.ctx with state := .stalled, afterCsw := .haltBoth }
    usb := { s.usb with haltOut := true, outArmed := .none, botResetRequired := true }
    usbOut := [] }

theorem byte_stalledOut (s : State) (sp : Space) (o : Nat) : (stalledOut s).byte sp o = s.byte sp o := rfl

theorem cancelCtx_of_idle (h : s.ctx.state = .done ∨ s.ctx.state = .stalled) : cancelCtx s = s := if_pos h

/-- The CSW is handed over where bulk-IN is free. -/
theorem cancelCtx_of_inFlight (h : ¬(s.ctx.state = .done ∨ s.ctx.state = .stalled)) :
    cancelCtx s = stalledOut
      (if s.usb.inBusy = .none ∧ s.usb.haltIn = false then handCsw (cancelled s) else cancelled s) := if_neg h

end

/-! ## The obligations -/

/-- Settles O24: the events by link state, the reset request by the state of the context and of bulk-IN. -/
theorem busAndSystemEvents : Obligations.BusAndSystemEvents := by
  intro s cleared
  refine ⟨busReset_of_active, busReset_of_suspend, busReset_of_other, ?linkChange, ?hwError, ?idle, ?inFlight⟩
  case linkChange => simp only [linkChange, linkDownFaults_iff]
  case hwError =>
    split
    case isTrue hquiet => exact hwError_of_quiet hquiet
    case isFalse hrunning => exact hwError_of_running hrunning
  case idle =>
    intro hidle
    rw [cancel, cancelCtx_of_idle (s := { s with ev := { s.ev with resetRequested := false } }) hidle]
  case inFlight =>
    intro hdone hstalled free
    refine ⟨cancelCtx { s with ev := { s.ev with resetRequested := false } }, rfl, ?_⟩
    rw [cancelCtx_of_inFlight (s := { s with ev := { s.ev with resetRequested := false } })
      (not_or.mpr ⟨hdone, hstalled⟩)]
    by_cases hfree : s.usb.inBusy = .none ∧ s.usb.haltIn = false
    · simp only [free, if_pos hfree]
      refine ⟨rfl, fun _ i hi => ?_, fun sp o hout => ?_⟩
      · rw [byte_stalledOut, byte_handCsw, if_pos ⟨rfl, hi⟩]
        rfl
      · have hcsw : ¬(sp = .cswbuf ∧ o < 13) := fun h => hout ⟨hfree, h⟩
        rw [byte_stalledOut, byte_handCsw, if_neg hcsw]
        rfl
    · simp only [free, if_neg hfree]
      exact ⟨rfl, fun h => absurd h hfree, fun _ _ _ => rfl⟩

/-- Settles O47: the reply by type and index, the free bytes of the BOS descriptor the tails of its two capabilities. -/
theorem getDescriptor : Obligations.GetDescriptor := by
  intro s type index i l
  obtain ⟨t, hexec, hreply⟩ := execGetDescriptor_repliedOrStalled type index i l s
  refine ⟨t, hexec, ?_⟩
  rw [descriptorReply] at hreply
  split_ifs at hreply ⊢
  · exact hreply
  · exact hreply
  · exact hreply
  · exact hreply
  · exact hreply
  · exact hreply
  · exact ⟨putLE32 Config.bosUsb2Tail, putBE24 (Config.bosSuperSpeedTail.extractLsb' 32 24) ++
      putBE32 (Config.bosSuperSpeedTail.extractLsb' 0 32), rfl, rfl, hreply⟩
  · exact hreply

/-- Settles O48: the stored value is 0 or 1. -/
theorem setConfiguration : Obligations.SetConfiguration := by
  intro s v i l
  have hlow : v.extractLsb' 0 8 = v.setWidth 8 := (BitVec.setWidth_eq_extractLsb' (by decide)).symm
  have hnat : (v.setWidth 8).toNat = v.toNat % 256 := BitVec.toNat_setWidth 8 v
  refine ⟨_, rfl, ?_⟩
  rw [hlow, hnat]
  by_cases hbad : l ≠ 0 ∨ 1 < v.toNat % 256
  · rw [if_pos hbad, if_pos hbad]
    exact ep0Stall_stalled0 s
  · rw [if_neg hbad, if_neg hbad, setConfig_ctlBegin]
    obtain hc | hc : v.setWidth 8 = 0 ∨ v.setWidth 8 = 1 := by
      rw [← BitVec.toNat_inj, ← BitVec.toNat_inj, hnat]
      change v.toNat % 256 = 0 ∨ v.toNat % 256 = 1
      omega
    · rw [hc, setConfig_zero]
      exact ctlAccept_accepted l _
    · rw [hc, setConfig_one]
      exact ctlAccept_accepted l _

/-- Settles O49: the two phases by the phase that is due, the status phase by the action it owes. -/
theorem statusPhase : Obligations.StatusPhase := by
  intro s hlink t
  have ht : t = if s.ctl.phase = .status then ctlFinish s else raiseFault .unexpectedEvent s :=
    ctlStatusPhase_of_active hlink
  refine ⟨fun hphase => ?_, fun hphase => ?_, fun hphase => ht.trans (if_neg hphase), fun hphase => ?_⟩
  · rw [ctlDataPhase_of_active hlink, if_neg hphase]
  · rw [ctlDataPhase_of_active hlink, if_pos hphase]
    rfl
  · rw [if_pos hphase] at ht
    rw [ht]
    cases haction : s.ctl.pendingAction with
    | none =>
      rw [ctlFinish_of_none haction, adoptAddress_eq]
      exact ⟨rfl, rfl, rfl, rfl, rfl, rfl, rfl, fun _ => ⟨rfl, rfl, rfl, rfl, rfl, rfl⟩, nofun⟩
    | botReset =>
      rw [ctlFinish_of_botReset haction, adoptAddress_eq, botReset_eq]
      exact ⟨rfl, rfl, rfl, rfl, rfl, rfl, rfl, nofun, fun _ => ⟨rfl, rfl, rfl, rfl, rfl, rfl⟩⟩

/-- Settles O45: the checks of each request, and the end that they choose. -/
theorem statusAddressResetUnhandled : Obligations.StatusAddressResetUnhandled := by
  refine ⟨fun s v i l => ⟨?device, ?interface, ?endpoint, ?address, ?reset⟩,
    fun s _ _ _ _ _ => ⟨_, rfl, ep0Stall_stalled0 s⟩⟩
  case device => exact ⟨_, rfl, ctlReply_replied [0, 0] l s⟩
  case interface =>
    refine ⟨_, rfl, ?_⟩
    split
    · exact ctlReply_replied [0, 0] l s
    · exact ep0Stall_stalled0 s
  case endpoint =>
    refine ⟨_, rfl, ?_⟩
    split
    · exact ctlReply_replied _ l s
    split
    · exact ctlReply_replied _ l s
    split
    · exact ctlReply_replied _ l s
    · exact ep0Stall_stalled0 s
  case address =>
    refine ⟨_, rfl, ?_⟩
    rw [BitVec.setWidth_eq_extractLsb' (by decide)]
    split
    · exact ep0Stall_stalled0 s
    · exact ctlAccept_accepted_owing l s _ _
  case reset =>
    refine ⟨_, rfl, ?_⟩
    split
    · exact ep0Stall_stalled0 s
    · exact ctlAccept_accepted_owing l s _ _

/-- Settles O46: by the endpoint, once the selector and the length are 0. -/
theorem clearFeature : Obligations.ClearFeature := by
  intro s v i l
  by_cases hbad : v ≠ 0 ∨ l ≠ 0
  · refine ⟨ep0Stall s, congrArg _ (if_pos hbad), ?_⟩
    rw [if_pos hbad]
    exact ep0Stall_stalled0 s
  refine ⟨_, execClearFeature_of_zero hbad s, ?_⟩
  rw [if_neg hbad]
  split
  case isTrue hin =>
    rw [hin, clearHalt_in]
    exact ctlAccept_accepted l _
  case isFalse hin =>
    split
    case isTrue hout =>
      rw [hout, clearHalt_out]
      exact ctlAccept_accepted l _
    case isFalse hout =>
      split
      case isTrue h0 =>
        rw [clearHalt_ep0 h0]
        exact ctlAccept_accepted l s
      case isFalse h0 =>
        rw [clearHalt_unknown hin hout h0]
        exact ep0Stall_stalled0 s

end Sys2Proof.Machine
end

section
/-! The Bulk-Only Transport frame: what a failed phase check does to a CDB command (O25) and what a taken bulk-IN transfer
does, the payload chunk and the CSW (O51). -/

namespace Sys2Proof.Machine

/-! ## From `Decode` to the phase check (rules R276, R277, R310, R341) -/

section
variable {i : Instr} {s : State} {dir : Dir} {len : Nat}

theorem toNat_cutLen {full : Nat} (h : full < 2 ^ 64) (alloc : Nat) : (cutLen full alloc).toNat = min full alloc := by
  rw [cutLen, BitVec.toNat_ofNat, Nat.mod_eq_of_lt (by omega)]

theorem toNat_blocksLen (blocks : BitVec 16) (s : State) :
    (blocksLen blocks s).toNat = blocks.toNat * s.nvme.blockSize.toNat := by
  have hlt : blocks.toNat * s.nvme.blockSize.toNat < 2 ^ 16 * 2 ^ 32 := Nat.mul_lt_mul'' blocks.isLt s.nvme.blockSize.isLt
  rw [blocksLen, BitVec.toNat_mul, BitVec.toNat_setWidth_of_le (by decide), BitVec.toNat_setWidth_of_le (by decide),
    Nat.mod_eq_of_lt (by omega)]

theorem toNat_e6Len_logPage (rest : BitVec 112) : (e6Len 0x02 rest).toNat = (Config.e6Len rest).val := by
  have hlt := (Config.e6Len rest).isLt
  rw [e6Len, if_neg (by decide), BitVec.toNat_ofNat, Nat.mod_eq_of_lt (by omega)]

theorem runMedium_of_checks {lba : BitVec 32} {blocks : BitVec 16} (body : State → State)
    (h : ready s = true ∧ lba.toNat + blocks.toNat ≤ s.nvme.nsSize.toNat) :
    runMedium dir lba blocks body s = runCdb dir (blocksLen blocks s) body
      { s with ctx := { s.ctx with lba := lba.setWidth 64, blocksLeft := blocks.setWidth 32 } } := by
  obtain ⟨hready, hrange⟩ := h
  have hnot : ¬lbaOutOfRange lba blocks s = true := by simpa [lbaOutOfRange] using hrange
  rw [runMedium, if_neg (by simp [hready]), if_neg hnot]

theorem not_badRegRange {size : BitVec 8} {addr : BitVec 24}
    (h : size.toNat ≤ 64 ∧ addr.toNat ≤ 0xFFFF ∧ addr.toNat + size.toNat ≤ 0x10000) : ¬badRegRange size addr = true := by
  obtain ⟨hsize, haddr, hend⟩ := h
  have hmax : ¬Config.xdataReadMax < size.toNat := Nat.not_lt.mpr hsize
  simp [badRegRange, hmax, haddr, hend]

/-- The context with the operands that READ(10) and WRITE(10) latch in `Decode` (rule R316). -/
def withOperands (i : Instr) (c : Ctx) : Ctx :=
  match i with
  | .read10 lba blocks | .write10 lba blocks => { c with lba := lba.setWidth 64, blocksLeft := blocks.setWidth 32 }
  | _ => c

theorem decoded_eq (i : Instr) (s : State) (dir : Dir) (len : Nat) :
    decoded i s dir len = { withOperands i s.ctx with cmdDir := dir, cmdLen := BitVec.ofNat 64 len } := by
  cases i <;> rfl

theorem phaseOk_withOperands (i : Instr) (s : State) (dir : Dir) (len : Nat) :
    phaseOk { s with ctx := withOperands i s.ctx } dir len ↔ phaseOk s dir len := by
  cases i <;> rfl

/-- The instruction is a command run in the frame of rule R276 with direction `dir` and length `len`. -/
def Framed (i : Instr) (s : State) (dir : Dir) (len : Nat) : Prop :=
  ∃ (size : BitVec 64) (body : State → State), size.toNat = len ∧
    exec i s = .next (runCdb dir size body { s with ctx := withOperands i s.ctx })

theorem of_guard {α : Type} {c : Prop} [Decidable c] {a b : α} (h : (if c then some a else none) = some b) : c ∧ a = b := by
  simpa using h

/-- A CDB whose `Decode` checks pass is run in the frame, by the tables of rules R310 and R341. -/
theorem framed_of_needs (h : needs i s = some (dir, len)) : Framed i s dir len := by
  cases i with
  | testUnitReady => cases h; exact ⟨0, _, rfl, rfl⟩
  | requestSense alloc => cases h; exact ⟨_, _, toNat_cutLen (by decide) _, rfl⟩
  | inquiry evpd page alloc =>
    cases evpd with
    | true => cases h
    | false =>
      cases h
      exact ⟨_, fun t => sendBuf (storeBytes .staging 0 inquiryBytes t), toNat_cutLen (by decide) _, rfl⟩
  | modeSense6 pc page alloc => cases h; exact ⟨_, _, toNat_cutLen (by decide) _, rfl⟩
  | readCapacity10 =>
    obtain ⟨hready, ⟨⟩⟩ := of_guard h
    exact ⟨8, _, rfl, congrArg _ (if_pos hready)⟩
  | read10 lba blocks =>
    obtain ⟨hchecks, ⟨⟩⟩ := of_guard h
    exact ⟨_, _, toNat_blocksLen blocks s, congrArg _ (runMedium_of_checks readNextChunk hchecks)⟩
  | write10 lba blocks =>
    obtain ⟨hchecks, ⟨⟩⟩ := of_guard h
    exact ⟨_, _, toNat_blocksLen blocks s, congrArg _ (runMedium_of_checks writeNextChunk hchecks)⟩
  | synchronizeCache =>
    obtain ⟨hready, ⟨⟩⟩ := of_guard h
    exact ⟨0, _, rfl, congrArg _ (if_pos hready)⟩
  | reportLuns alloc => cases h; exact ⟨_, _, toNat_cutLen (by decide) _, rfl⟩
  | vendorE0_50 blockno =>
    obtain ⟨hblock, ⟨⟩⟩ := of_guard h
    exact ⟨128, _, rfl, congrArg _ (if_neg (Nat.not_lt.mpr hblock))⟩
  | vendorE1_50 blockno =>
    obtain ⟨hblock, ⟨⟩⟩ := of_guard h
    exact ⟨128, _, rfl, congrArg _ (if_neg (Nat.not_lt.mpr hblock))⟩
  | vendorE2 length =>
    obtain ⟨hlength, ⟨⟩⟩ := of_guard h
    exact ⟨_, _, BitVec.toNat_setWidth_of_le (by decide), congrArg _ (if_neg (Nat.not_lt.mpr hlength))⟩
  | vendorE3_50 length =>
    obtain ⟨hplace, ⟨⟩⟩ := of_guard h
    exact ⟨_, _, BitVec.toNat_setWidth_of_le (by decide), congrArg _ (if_neg (Nat.not_lt.mpr hplace))⟩
  | vendorE3_D0 length =>
    obtain ⟨hplace, ⟨⟩⟩ := of_guard h
    exact ⟨_, _, BitVec.toNat_setWidth_of_le (by decide), congrArg _ (if_neg (Nat.not_lt.mpr hplace))⟩
  | vendorE4 size addr =>
    obtain ⟨hrange, ⟨⟩⟩ := of_guard h
    exact ⟨_, _, BitVec.toNat_setWidth_of_le (by decide), congrArg _ (if_neg (not_badRegRange hrange))⟩
  | vendorE5 value addr =>
    obtain ⟨haddr, ⟨⟩⟩ := of_guard h
    exact ⟨0, _, rfl, congrArg _ (if_neg (Nat.not_lt.mpr haddr))⟩
  | vendorE6_02 rest =>
    obtain ⟨hlink, ⟨⟩⟩ := of_guard h
    exact ⟨_, _, toNat_e6Len_logPage rest, congrArg _ (if_pos hlink)⟩
  | vendorE6_06 rest =>
    obtain ⟨hlink, ⟨⟩⟩ := of_guard h
    exact ⟨_, _, rfl, congrArg _ (if_pos hlink)⟩
  | vendorE8_00 | vendorE8_01 | vendorE8_51 => cases h; exact ⟨0, _, rfl, rfl⟩
  | _ => cases h

end

/-- Settles O25: a command whose `Decode` checks pass reaches the phase check with what `Decode` latched. -/
theorem phaseErrorEnds : Obligations.PhaseErrorEnds := by
  intro i s dir len hneeds hphase
  obtain ⟨size, body, rfl, hexec⟩ := framed_of_needs hneeds
  have hdecoded : decoded i s dir size.toNat = { withOperands i s.ctx with cmdDir := dir, cmdLen := size } := by
    rw [decoded_eq, BitVec.ofNat_toNat, BitVec.setWidth_eq]
  rw [hexec, runCdb_phase (mt (phaseOk_withOperands i s dir size.toNat).mp hphase), hdecoded]
  exact ⟨_, rfl, phaseError_ended _⟩

/-! ## The next chunk of READ(10) (rule R282) -/

section
variable {s : State}

theorem readNextChunk_of_none_left (h : s.ctx.blocksLeft = 0) : readNextChunk s = finish 0 s := if_pos h

/-- With blocks left, the NVMe Read of the next chunk is built. -/
theorem readNextChunk_submits (h : s.ctx.blocksLeft ≠ 0) :
    Submits s (readNextChunk s) s.ctx .io (.nvmeRead 0 Config.nsid Config.stagingPcieAddr s.ctx.lba
      (BitVec.ofNat 16 (min (4096 / s.nvme.blockSize.toNat) s.ctx.blocksLeft.toNat) - 1)) :=
  ⟨_, rfl, if_neg h⟩

/-! ## The bulk-IN event (rules R215, R292, R293) -/

theorem expectBulkIn_iff (s : State) : expectBulkIn s = true ↔
    s.usb.config ≠ 0 ∧ s.usb.inBusy ≠ .none ∧
      (s.ctx.state = .sendingData ∨ s.ctx.state = .awaitingCsw ∨ (s.ctx.state = .stalled ∧ s.usb.inBusy = .csw)) := by
  unfold expectBulkIn
  cases hstate : s.ctx.state <;> simp [and_assoc]

theorem bulkInHandler_of_unexpected (hlink : s.link.state = .ready ∨ s.link.state = .resume)
    (h : ¬expectBulkIn s = true) : bulkInHandler s = raiseFault .unexpectedEvent s := by
  rw [bulkInHandler, expectUsb_of_active hlink]
  exact if_neg h

theorem bulkInHandler_of_expected (hlink : s.link.state = .ready ∨ s.link.state = .resume)
    (h : expectBulkIn s = true) : bulkInHandler s = if s.usb.inBusy = .csw then cswAck s else dataAck s := by
  rw [bulkInHandler, expectUsb_of_active hlink]
  exact if_pos h

/-- In `FAULT` only the acknowledged CSW is handled, whatever the configuration (rule R215). -/
theorem bulkInHandler_of_fault (h : s.link.state = .fault) :
    bulkInHandler s = if s.usb.inBusy = .csw then cswAck s else s := by
  simp [bulkInHandler, h, expectUsb]

/-- The state with the transfer of bulk-IN taken by the host. -/
def bulkInTaken (s : State) : State := { s with usb := { s.usb with inBusy := .none } }

theorem dataAck_of_read (hstate : s.ctx.state = .sendingData) (hop : byteAt s.ctx.cdb 0 = 0x28) :
    dataAck s = readNextChunk (bulkInTaken s) :=
  (if_pos hstate).trans (if_pos hop)

theorem dataAck_of_last (hstate : s.ctx.state = .sendingData) (hlast : byteAt s.ctx.cdb 0 ≠ 0x28 ∨ s.ctx.blocksLeft = 0) :
    dataAck s = finish 0 (bulkInTaken s) := by
  by_cases hop : byteAt s.ctx.cdb 0 = 0x28
  · rw [dataAck_of_read hstate hop]
    exact readNextChunk_of_none_left (hlast.resolve_left (not_not_intro hop))
  · exact (if_pos hstate).trans (if_neg hop)

theorem dataAck_of_not_sending (h : s.ctx.state ≠ .sendingData) : dataAck s = bulkInTaken s := if_neg h

/-! ## The acknowledged CSW (rules R286, R289, R471) -/

/-- The state with the CSW taken and its context `DONE`. -/
def commandDone (s : State) : State := { bulkInTaken s with ctx := { s.ctx with state := .done } }

theorem mayArmCbw_iff (s : State) : mayArmCbw s = true ↔
    s.ctx.state = .done ∧ s.usb.config = 1 ∧ s.usb.haltOut = false ∧ (s.link.state = .ready ∨ s.link.state = .resume) := by
  simp [mayArmCbw, and_assoc]

theorem mayArmCbw_commandDone_iff (s : State) : mayArmCbw (commandDone s) = true ↔
    s.usb.config = 1 ∧ s.usb.haltOut = false ∧ (s.link.state = .ready ∨ s.link.state = .resume) :=
  (mayArmCbw_iff _).trans (and_iff_right rfl)

/-- With nothing owed an awaiting context is `DONE`, and a CBW is asked for where it may be. -/
theorem cswAck_of_nothing (h : s.ctx.afterCsw = .nothing) :
    cswAck s = if s.ctx.state = .awaitingCsw then armCbwIf (mayArmCbw (commandDone s)) (commandDone s)
      else armCbwIf (mayArmCbw (bulkInTaken s)) (bulkInTaken s) := by
  have htaken : { s with usb := { s.usb with inBusy := .none }, ctx := { s.ctx with afterCsw := .nothing } } =
      bulkInTaken s := by
    rw [← h]
    rfl
  unfold cswAck
  rw [htaken, h]
  dsimp only
  split
  case isTrue hstate => exact (if_pos hstate).symm
  case isFalse hstate => exact (if_neg hstate).symm

theorem cswAck_of_next_cbw (h : s.ctx.afterCsw = .nothing) (hstate : s.ctx.state = .awaitingCsw)
    (hmay : mayArmCbw (commandDone s) = true) : cswAck s = armOut .cbw (commandDone s) := by
  rw [cswAck_of_nothing h, if_pos hstate, armCbwIf, if_pos hmay]

theorem cswAck_of_no_next_cbw (h : s.ctx.afterCsw = .nothing) (hstate : s.ctx.state = .awaitingCsw)
    (hmay : ¬mayArmCbw (commandDone s) = true) : cswAck s = commandDone s := by
  rw [cswAck_of_nothing h, if_pos hstate, armCbwIf, if_neg hmay]

/-- A stalled context stays so, and no CBW is asked for while it lives. -/
theorem cswAck_of_stalled (h : s.ctx.afterCsw = .nothing) (hstate : s.ctx.state = .stalled) :
    cswAck s = bulkInTaken s := by
  have hawait : s.ctx.state ≠ .awaitingCsw := by rw [hstate]; decide
  have hmay : ¬mayArmCbw (bulkInTaken s) = true := by simp [mayArmCbw_iff, bulkInTaken, hstate]
  rw [cswAck_of_nothing h, if_neg hawait, armCbwIf, if_neg hmay]

theorem cswAck_of_haltBoth (h : s.ctx.afterCsw = .haltBoth) :
    cswAck s = haltBoth { bulkInTaken s with ctx := { s.ctx with afterCsw := .nothing } } := by
  simp only [cswAck, h]
  rfl

theorem cswAck_of_reset (h : s.ctx.afterCsw = .hardReset ∨ s.ctx.afterCsw = .commitReset) : cswAck s = powerOn s := by
  obtain h | h := h <;> simp only [cswAck, h] <;> rfl

theorem cswAck_of_reenumerate (h : s.ctx.afterCsw = .reenumerate) :
    cswAck s = raiseFault .softReenumerate
      { bulkInTaken s with ctx := { s.ctx with state := .done, afterCsw := .nothing } } := by
  simp only [cswAck, h]
  rfl

/-- A fault taken with no command in flight keeps the context. -/
theorem raiseFault_ctx_of_not_in_flight (code : FaultCode) (h : beforeCsw s.ctx.state = false) :
    (raiseFault code s).ctx = s.ctx := by
  have hkept : failInFlight (appendFault code s) = appendFault code s := if_neg (ne_true_of_eq_false h)
  obtain ⟨-, heq⟩ | ⟨-, heq⟩ := raiseFault_cases code s
  · rw [heq]
    rfl
  · rw [heq, hkept]
    rfl

/-- A fault leads to `FAULT`, or is taken there (rule R212). -/
theorem raiseFault_linkState (code : FaultCode) (h : s.link.state ≠ .recovery) :
    (raiseFault code s).link.state = .fault := by
  by_cases hfault : s.link.state = .fault
  · rw [raiseFault_of_faulted code (.inl hfault)]
    exact hfault
  · rw [raiseFault_link code (not_or.mpr ⟨hfault, h⟩)]

/-- A taken payload chunk, by the state of the context (rules R281, R282, R292, R293). -/
theorem bulkInHandler_data {n : Nat} (hlink : s.link.state = .ready ∨ s.link.state = .resume) (hcfg : s.usb.config ≠ 0)
    (hdata : s.usb.inBusy = .data n) :
    bulkInHandler s =
      if s.ctx.state = .sendingData ∨ s.ctx.state = .awaitingCsw then dataAck s else raiseFault .unexpectedEvent s := by
  have hexpect : expectBulkIn s = true ↔ s.ctx.state = .sendingData ∨ s.ctx.state = .awaitingCsw := by
    rw [expectBulkIn_iff, and_iff_right hcfg]
    simp [hdata]
  split
  case isTrue h =>
    rw [bulkInHandler_of_expected hlink (hexpect.mpr h), if_neg (by rw [hdata]; nofun)]
  case isFalse h => exact bulkInHandler_of_unexpected hlink (mt hexpect.mp h)

/-- A taken CSW, in the states that expect it (rule R293). -/
theorem bulkInHandler_csw (hlink : s.link.state = .ready ∨ s.link.state = .resume) (hcfg : s.usb.config ≠ 0)
    (hcsw : s.usb.inBusy = .csw) :
    bulkInHandler s = if s.ctx.state = .sendingData ∨ s.ctx.state = .awaitingCsw ∨ s.ctx.state = .stalled then cswAck s
      else raiseFault .unexpectedEvent s := by
  have hexpect : expectBulkIn s = true ↔
      s.ctx.state = .sendingData ∨ s.ctx.state = .awaitingCsw ∨ s.ctx.state = .stalled := by
    rw [expectBulkIn_iff, and_iff_right hcfg]
    simp [hcsw]
  split
  case isTrue h => rw [bulkInHandler_of_expected hlink (hexpect.mpr h), if_pos hcsw]
  case isFalse h => exact bulkInHandler_of_unexpected hlink (mt hexpect.mp h)

end

/-- Settles O51: the event by what bulk-IN was handed, and the acknowledged CSW by what its command left to do. -/
theorem bulkInAcknowledged : Obligations.BulkInAcknowledged := by
  intro s
  refine ⟨fun hlink => ⟨?_, bulkInHandler_csw hlink, fun n hcfg hdata => ?_⟩, bulkInHandler_of_fault, ?_, ?_,
    cswAck_of_stalled, cswAck_of_haltBoth, cswAck_of_reset, fun howed => ?_⟩
  case refine_1 =>
    intro hidle
    refine bulkInHandler_of_unexpected hlink fun hexpect => ?_
    obtain ⟨hcfg, hbusy, -⟩ := (expectBulkIn_iff s).mp hexpect
    exact hidle.elim hcfg hbusy
  case refine_2 =>
    rw [bulkInHandler_data hlink hcfg hdata]
    refine ⟨fun hstate hlast => ?_, fun hstate hop hleft => ?_, fun hstate => ?_, fun hsend hawait => ?_⟩
    · rw [if_pos (.inl hstate), dataAck_of_last hstate hlast]
      exact ⟨finish_ended 0 (bulkInTaken s), finish_changes 0 (bulkInTaken s)⟩
    · rw [if_pos (.inl hstate), dataAck_of_read hstate hop]
      exact readNextChunk_submits (s := bulkInTaken s) hleft
    · rw [if_pos (.inr hstate), dataAck_of_not_sending (by rw [hstate]; decide)]
      rfl
    · exact if_neg (not_or.mpr ⟨hsend, hawait⟩)
  case refine_3 =>
    intro howed hstate hcfg hhalt hlink
    exact cswAck_of_next_cbw howed hstate ((mayArmCbw_commandDone_iff s).mpr ⟨hcfg, hhalt, hlink⟩)
  case refine_4 =>
    intro howed hstate hnot
    refine cswAck_of_no_next_cbw howed hstate fun hmay => ?_
    obtain ⟨hcfg, hhalt, hlink⟩ := (mayArmCbw_commandDone_iff s).mp hmay
    obtain hcfg' | hhalt' | ⟨hready, hresume⟩ := hnot
    · exact hcfg' hcfg
    · exact absurd (hhalt.symm.trans hhalt') Bool.false_ne_true
    · exact hlink.elim hready hresume
  case refine_5 =>
    rw [cswAck_of_reenumerate howed]
    refine ⟨?_, raiseFault_faults _ _, fun hlink => raiseFault_linkState _ hlink⟩
    rw [raiseFault_ctx_of_not_in_flight]
    rfl

end Sys2Proof.Machine
end

section
/-! A flash chunk of 0xE1 or 0xE3 (O54): the bytes that the driver's program writes, and the next chunk of a data-OUT phase. -/

namespace Sys2Proof.Machine

/-! ## The next chunk of a data-OUT phase (rule R283) -/

section
variable {s t : State}

theorem writeNextChunk_asks (s : State) :
    Asked s (writeNextChunk s) s.ctx (s.ctx.cmdLen - s.ctx.actual.setWidth 64).toNat := by
  by_cases hrest : s.ctx.cmdLen - s.ctx.actual.setWidth 64 = 0
  · have hend : writeNextChunk s = finish 0 s := if_pos hrest
    rw [hrest, hend]
    exact ⟨fun hpos => absurd hpos (by decide), fun _ => ⟨finish_ended 0 s, finish_changes 0 s⟩⟩
  · have hpos : (s.ctx.cmdLen - s.ctx.actual.setWidth 64).toNat ≠ 0 := fun h => hrest (BitVec.eq_of_toNat_eq h)
    exact ⟨fun _ => if_neg hrest, fun hzero => absurd hzero hpos⟩

theorem nextOutChunk_asks (s : State) :
    Asked s (nextOutChunk s) { s.ctx with chunkIdx := s.ctx.chunkIdx + 1 }
      (s.ctx.cmdLen - s.ctx.actual.setWidth 64).toNat :=
  writeNextChunk_asks { s with ctx := { s.ctx with chunkIdx := s.ctx.chunkIdx + 1 } }

/-- Asking for a chunk changes no byte; the end of the command changes the CSW's. -/
theorem Asked.changes {c : Ctx} {len : Nat} (h : Asked s t c len) :
    Changes s t (fun sp o => len = 0 ∧ inCsw sp o) := by
  intro sp o hout
  obtain ⟨hask, hend⟩ := h
  by_cases hlen : len = 0
  · exact (hend hlen).2 sp o fun hcsw => hout ⟨hlen, hcsw⟩
  · rw [hask (Nat.pos_of_ne_zero hlen)]
    rfl

/-! ## What the driver writes (rules R84, R346) -/

/-- The bytes of the touched sectors are a range. -/
theorem touched_iff (a n o : Nat) :
    (sectorLo a ≤ o ∧ o < sectorLo a + (sectorHi a n - sectorLo a)) ↔ touched a n o := by
  unfold sectorLo sectorHi touched Config.flashSector
  omega

/-- After a program: the data, around it the erased bytes of the touched sectors, and every other byte as it was. -/
theorem byte_flashProgram_flash (a : Nat) (data : Bytes) (s : State) (o : Nat) :
    (flashProgram a data s).byte .flash o =
      if a ≤ o ∧ o < a + data.length then byteAt data (o - a)
      else if Config.flashCollateralErased = true ∧ touched a data.length o then 0xFF
      else s.byte .flash o := by
  unfold flashProgram State.byte
  dsimp only
  rw [programPages_eq _ _ _ _ (Nat.le_refl _), memByte_writeBytes]
  by_cases hdata : a ≤ o ∧ o < a + data.length
  · simp [hdata]
  · cases Config.flashCollateralErased with
    | false => simp [hdata]
    | true => simp [hdata, memByte_fill, touched_iff]

theorem byte_flashProgram_of_ne {sp : Space} (hsp : sp ≠ .flash) (a : Nat) (data : Bytes) (s : State) (o : Nat) :
    (flashProgram a data s).byte sp o = s.byte sp o := by
  unfold flashProgram State.byte
  dsimp only
  rw [programPages_eq _ _ _ _ (Nat.le_refl _), memByte_writeBytes, if_neg fun h => hsp h.1.symm]
  split
  · rw [memByte_fill, if_neg fun h => hsp h.1.symm]
  · rfl

/-- A failed program reaches the range, and its sectors where they are erased (U6). -/
theorem flashGarbage_changes (a n : Nat) (s : State) : Changes s (flashGarbage a n s) (fun sp o =>
    sp = .flash ∧ ((a ≤ o ∧ o < a + n) ∨ (Config.flashCollateralErased = true ∧ touched a n o))) := by
  intro sp o hout
  unfold flashGarbage State.byte
  dsimp only
  split
  case isTrue herase =>
    rw [memByte_fill, if_neg]
    rintro ⟨rfl, hrange⟩
    exact hout ⟨rfl, .inr ⟨herase, (touched_iff a n o).mp hrange⟩⟩
  case isFalse =>
    rw [memByte_fill, if_neg]
    rintro ⟨rfl, hrange⟩
    exact hout ⟨rfl, .inl hrange⟩

/-! ## The chunk by its command (rules R345, R348) -/

/-- A chunk of `n` bytes of the context's command has its place at `a` of the flash, and `fw` is the firmware state once it is
programmed. -/
def FlashPlace (s : State) (n a : Nat) (fw : Fw) : Prop :=
  (∃ b, decodeCdb s.ctx.cdb = .vendorE1_50 b ∧ a = 128 * b.toNat ∧ fw = s.fw) ∨
  (∃ l, decodeCdb s.ctx.cdb = .vendorE3_50 l ∧ a = 0x80 + s.fw.cursor1.toNat ∧
    fw = { s.fw with cursor1 := s.fw.cursor1 + BitVec.ofNat 32 n, staged := true, flashValid := false }) ∨
  (∃ l, decodeCdb s.ctx.cdb = .vendorE3_D0 l ∧ a = 0x10000 + s.fw.cursor2.toNat ∧
    fw = { s.fw with cursor2 := s.fw.cursor2 + BitVec.ofNat 32 n, staged := true, flashValid := false })

theorem chunkExec_of_place {n a : Nat} {fw : Fw} (h : FlashPlace s n a fw) :
    ∃ after : State → State, (∀ t, t.fw = s.fw → after t = { t with fw := fw }) ∧
      chunkExec n s = flashChunk a n after s := by
  obtain ⟨b, hcdb, rfl, rfl⟩ | ⟨l, hcdb, rfl, rfl⟩ | ⟨l, hcdb, rfl, rfl⟩ := h
  · refine ⟨id, fun t ht => by rw [← ht]; rfl, ?_⟩
    rw [chunkExec, hcdb]
  · refine ⟨fun t => { t with fw := t.fw.advance .part1 n }, fun t ht => by simp only [ht]; rfl, ?_⟩
    rw [chunkExec, hcdb]
    rfl
  · refine ⟨fun t => { t with fw := t.fw.advance .part2 n }, fun t ht => by simp only [ht]; rfl, ?_⟩
    rw [chunkExec, hcdb]
    rfl

theorem flashChunk_of_programmed {a n : Nat} (after : State → State) (hfit : a + n ≤ Config.flashSize)
    (hok : s.flashOk = true) : flashChunk a n after s =
      .next (nextOutChunk (after (flashProgram a (s.bytes .staging 0 n) s))) :=
  (if_neg (Nat.not_lt.mpr hfit)).trans (if_pos hok)

theorem flashChunk_of_failed {a n : Nat} (after : State → State) (hfit : a + n ≤ Config.flashSize)
    (hok : ¬s.flashOk = true) : flashChunk a n after s = .next (vendorError (flashGarbage a n s)) :=
  (if_neg (Nat.not_lt.mpr hfit)).trans (if_neg hok)

theorem programmed_of_flashProgram {a n : Nat}
    (h : ∀ o, t.byte .flash o = (flashProgram a (s.bytes .staging 0 n) s).byte .flash o) : Programmed s t a n := by
  intro o
  rw [h, byte_flashProgram_flash, length_bytes]
  split
  case isTrue hrange => rw [byteAt_bytes, if_pos (by omega), Nat.zero_add]
  case isFalse => rfl

/-- What is asked for does not depend on the memory that the bytes before it were stored in. -/
theorem Asked.with_mem {c : Ctx} {len : Nat} (h : Asked s t c len) : Asked { s with mem := t.mem } t c len := by
  obtain ⟨hask, hend⟩ := h
  refine ⟨fun hpos => ?_, fun hzero => ?_⟩
  · have hmem : t.mem = s.mem := by rw [hask hpos]
    rw [hmem]
    exact hask hpos
  · obtain ⟨hended, -⟩ := hend hzero
    refine ⟨hended, fun sp o _ => ?_⟩
    have hepoch : t.epoch = s.epoch := by rw [hended.1]
    simp only [State.byte, hepoch]

/-- The state with a chunk programmed from `STAGING` and the firmware state brought up to it. -/
def chunkProgrammed (s : State) (a n : Nat) (fw : Fw) : State :=
  { flashProgram a (s.bytes .staging 0 n) s with fw := fw }

/-- After a programmed chunk its bytes are in the flash, and the next chunk is asked for or the command ends. -/
theorem nextOutChunk_of_programmed (s : State) (a n : Nat) (fw : Fw) :
    let t := nextOutChunk (chunkProgrammed s a n fw)
    let rest := (s.ctx.cmdLen - s.ctx.actual.setWidth 64).toNat
    Programmed s t a n ∧
    Asked { s with fw := fw, mem := t.mem } t { s.ctx with chunkIdx := s.ctx.chunkIdx + 1 } rest ∧
    Changes s t (fun sp o => sp = .flash ∨ (rest = 0 ∧ inCsw sp o)) := by
  have hasks := nextOutChunk_asks (chunkProgrammed s a n fw)
  refine ⟨programmed_of_flashProgram fun o => hasks.changes .flash o ?_, hasks.with_mem, fun sp o hout => ?_⟩
  · rintro ⟨-, hcsw, -⟩
    cases hcsw
  · rw [not_or] at hout
    obtain ⟨hsp, hcsw⟩ := hout
    exact (hasks.changes sp o hcsw).trans (byte_flashProgram_of_ne hsp ..)

/-- A chunk that the driver fails ends the command, and reaches what the failed program reached. -/
theorem vendorError_flashGarbage_changes (s : State) (a n : Nat) :
    Changes s (vendorError (flashGarbage a n s)) (fun sp o => inCsw sp o ∨
      (sp = .flash ∧ ((a ≤ o ∧ o < a + n) ∨ (Config.flashCollateralErased = true ∧ touched a n o)))) := by
  intro sp o hout
  rw [not_or] at hout
  obtain ⟨hcsw, hflash⟩ := hout
  obtain ⟨-, hchanges⟩ := vendorError_failed (flashGarbage a n s)
  exact (hchanges sp o hcsw).trans (flashGarbage_changes a n s sp o hflash)

end

/-- Settles O54: the place of the chunk by its command, then the driver's success or failure. (`flashChunk` is the model's
own name.) -/
theorem flashChunk_programmed_or_failed : Obligations.FlashChunk := by
  intro s n a fw _ hfit hplace
  obtain ⟨after, hafter, hexec⟩ := chunkExec_of_place hplace
  by_cases hok : s.flashOk = true
  · have hnext : after (flashProgram a (s.bytes .staging 0 n) s) = chunkProgrammed s a n fw := hafter _ rfl
    rw [hexec, flashChunk_of_programmed after hfit hok, hnext]
    refine ⟨_, rfl, ?_⟩
    dsimp only
    rw [if_pos hok]
    exact nextOutChunk_of_programmed s a n fw
  · rw [hexec, flashChunk_of_failed after hfit hok]
    refine ⟨_, rfl, ?_⟩
    dsimp only
    rw [if_neg hok]
    obtain ⟨hended, -⟩ := vendorError_failed (flashGarbage a n s)
    exact ⟨hended, vendorError_flashGarbage_changes s a n⟩

end Sys2Proof.Machine
end

section
/-! What a completion's status does to its slot (O59): the entry of a slot issued with a fresh id, and the delivery of a
final status to the context or to the bring-up. -/

namespace Sys2Proof.Machine

/-! ## The fresh id (rules R373, R376, R377) -/

section
variable {s : State} {i : Nat}

/-- The ids in use are those of the other slots in use. -/
theorem mem_idsInUse_iff {c : BitVec 16} : c ∈ idsInUse s.nvme.slots i ↔
    ∃ j, j < s.nvme.slots.length ∧ j ≠ i ∧ (s.nvme.slot j).inUse = true ∧ (s.nvme.slot j).cid = c := by
  rw [idsInUse, List.mem_map]
  constructor
  · rintro ⟨y, hy, hcid⟩
    obtain ⟨hmem, huse⟩ := List.mem_filter.mp hy
    obtain ⟨j, hj, rfl⟩ := List.getElem_of_mem hmem
    have hlt : j < s.nvme.slots.length := by simpa using hj
    have hne : i ≠ j := by
      rintro rfl
      rw [List.getElem_set_self] at huse
      cases huse
    rw [List.getElem_set_ne hne] at huse hcid
    rw [← slot_eq_getElem hlt] at huse hcid
    exact ⟨j, hlt, hne.symm, huse, hcid⟩
  · rintro ⟨j, hlt, hne, huse, hcid⟩
    have hmem : s.nvme.slot j ∈ s.nvme.slots.set i Slot.free :=
      List.mem_iff_getElem.mpr ⟨j, by simpa using hlt, by rw [List.getElem_set_ne hne.symm, slot_eq_getElem hlt]⟩
    exact ⟨_, List.mem_filter.mpr ⟨hmem, huse⟩, hcid⟩

theorem length_idsInUse_le (l : List Slot) (i : Nat) : (idsInUse l i).length ≤ l.length := by
  rw [idsInUse, List.length_map]
  exact (List.length_filter_le _ _).trans_eq List.length_set

/-- The id tried last follows ids that are all in use. -/
theorem freeCid_eq_add (used : List (BitVec 16)) (n : Nat) (c : BitVec 16) :
    ∃ d, freeCid used n c = c + BitVec.ofNat 16 d ∧ ∀ d', d' < d → c + BitVec.ofNat 16 d' ∈ used := by
  induction n generalizing c with
  | zero => exact ⟨0, by simp [freeCid], fun d' h => absurd h (Nat.not_lt_zero d')⟩
  | succ n ih =>
    rw [freeCid]
    split
    case isFalse => exact ⟨0, by simp, fun d' h => absurd h (Nat.not_lt_zero d')⟩
    case isTrue hused =>
      have hsucc : ∀ d, c + 1 + BitVec.ofNat 16 d = c + BitVec.ofNat 16 (d + 1) := fun d => by
        rw [BitVec.ofNat_add, BitVec.add_assoc, BitVec.add_comm 1]
        rfl
      obtain ⟨d, heq, hbefore⟩ := ih (c + 1)
      refine ⟨d + 1, heq.trans (hsucc d), fun d' hd' => ?_⟩
      cases d' with
      | zero => simpa using hused
      | succ d' => rw [← hsucc]; exact hbefore d' (Nat.lt_of_succ_lt_succ hd')

/-! ## Issuing an entry (rules R92, R373) -/

theorem setSlot_slot (h : i < s.nvme.slots.length) (x : Slot) : (setSlot i x s).nvme.slot i = x := by
  simp [Nvme.slot, h]

theorem idsInUse_set (l : List Slot) (i : Nat) (x : Slot) : idsInUse (l.set i x) i = idsInUse l i := by
  rw [idsInUse, List.set_set, idsInUse]

/-- The id that slot `i` gets when it is issued. -/
def issuedCid (i : Nat) (s : State) : BitVec 16 :=
  freeCid (idsInUse s.nvme.slots i) (s.nvme.slots.length + 1) s.nvme.nextCid

/-- The engine once slot `i` is issued holding `x`. -/
def issuedNvme (i : Nat) (x : Slot) (s : State) : Nvme :=
  let tail := nextIndex (s.nvme.queue x.q).sqTail
  { s.nvme.setQueue x.q { s.nvme.queue x.q with sqTail := tail, sqTailDb := tail.val } with
    nextCid := issuedCid i s + 1
    slots := s.nvme.slots.set i { x with cid := issuedCid i s, sqe := withCid x.sqe (issuedCid i s), issuedAt := s.now } }

/-- The queue pair of an issued entry: the tail and its doorbell have moved on. -/
theorem issuedNvme_queue (i : Nat) (x : Slot) (s : State) : (issuedNvme i x s).queue x.q =
    { s.nvme.queue x.q with
      sqTail := nextIndex (s.nvme.queue x.q).sqTail, sqTailDb := (nextIndex (s.nvme.queue x.q).sqTail).val } := by
  unfold issuedNvme
  cases x.q <;> rfl

theorem issuedNvme_queue_of_ne {r : QueueId} {x : Slot} (h : r ≠ x.q) (i : Nat) (s : State) :
    (issuedNvme i x s).queue r = s.nvme.queue r := by
  rw [← queue_setQueue_of_ne s.nvme (issuedNvme i x s |>.queue x.q) h, issuedNvme_queue]
  cases r <;> rfl

/-- Issuing an entry keeps what the bring-up told. -/
theorem issuedNvme_keeps (i : Nat) (x : Slot) (s : State) :
    (issuedNvme i x s).init = s.nvme.init ∧ (issuedNvme i x s).identified = s.nvme.identified ∧
    (issuedNvme i x s).ioCreated = s.nvme.ioCreated ∧ (issuedNvme i x s).nsSize = s.nvme.nsSize ∧
    (issuedNvme i x s).blockSize = s.nvme.blockSize := by
  unfold issuedNvme
  cases x.q <;> exact ⟨rfl, rfl, rfl, rfl, rfl⟩

/-- Slot `i` is given `x` and issued. -/
theorem issue_setSlot (h : i < s.nvme.slots.length) (x : Slot) :
    issue i (setSlot i x s) = { s with
      nvme := issuedNvme i x s
      mem := s.mem.writeBytes (.sq x.q) (64 * (s.nvme.queue x.q).sqTail.val) (withCid x.sqe (issuedCid i s)) } := by
  have hcid : freeCid (idsInUse (setSlot i x s).nvme.slots i) ((setSlot i x s).nvme.slots.length + 1)
      (setSlot i x s).nvme.nextCid = issuedCid i s := by
    simp only [setSlot_nvme, idsInUse_set, List.length_set]
    rfl
  have hqueue : (setSlot i x s).nvme.queue x.q = s.nvme.queue x.q := by cases x.q <;> rfl
  have hslots : ∀ y, (setSlot i x s).nvme.slots.set i y = s.nvme.slots.set i y := fun y => List.set_set ..
  unfold issue
  rw [hcid, setSlot_slot h]
  dsimp only
  rw [hqueue, hslots]
  unfold issuedNvme
  dsimp only
  cases x.q <;> rfl

/-- The id of an issued slot is the first free one from `nvme.next_cid` on. -/
theorem issuedCid_first (hlen : s.nvme.slots.length = Config.kMax) (i : Nat) :
    ∃ d, issuedCid i s = s.nvme.nextCid + BitVec.ofNat 16 d ∧
      (∀ j, j < Config.kMax → j ≠ i → (s.nvme.slot j).inUse = true → (s.nvme.slot j).cid ≠ issuedCid i s) ∧
      ∀ d', d' < d → ∃ j, j < Config.kMax ∧ j ≠ i ∧ (s.nvme.slot j).inUse = true ∧
        (s.nvme.slot j).cid = s.nvme.nextCid + BitVec.ofNat 16 d' := by
  have hfresh : issuedCid i s ∉ idsInUse s.nvme.slots i :=
    freeCid_not_mem _ _ _ ((length_idsInUse_le _ i).trans (Nat.le_succ _)) (by rw [hlen]; decide)
  obtain ⟨d, hd, hbefore⟩ := freeCid_eq_add (idsInUse s.nvme.slots i) (s.nvme.slots.length + 1) s.nvme.nextCid
  refine ⟨d, hd, fun j hj hne huse hcid => hfresh (mem_idsInUse_iff.mpr ⟨j, hlen ▸ hj, hne, huse, hcid⟩), fun d' hd' => ?_⟩
  rw [← hlen]
  exact mem_idsInUse_iff.mp (hbefore d' hd')

theorem length_withCid {e : Bytes} (h : e.length = 64) (c : BitVec 16) : (withCid e c).length = 64 := by
  simp [withCid, h]

/-- A slot of the pool given the 64 bytes of an entry is issued as rule R373 says. -/
theorem issue_setSlot_issued (hi : i < s.nvme.slots.length) (hlen : s.nvme.slots.length = Config.kMax) {x : Slot}
    (hx : x.sqe.length = 64) : Issued s (issue i (setSlot i x s)) i x := by
  obtain ⟨d, hd, hfresh, hfirst⟩ := issuedCid_first hlen i
  obtain ⟨hinit, hidentified, hcreated, hsize, hblock⟩ := issuedNvme_keeps i x s
  have hbytes : ∀ sp o, (issue i (setSlot i x s)).byte sp o =
      if Space.sq x.q = sp ∧ 64 * (s.nvme.queue x.q).sqTail.val ≤ o ∧ o < 64 * (s.nvme.queue x.q).sqTail.val + 64
      then byteAt (withCid x.sqe (issuedCid i s)) (o - 64 * (s.nvme.queue x.q).sqTail.val) else s.byte sp o := by
    intro sp o
    rw [issue_setSlot hi, ← length_withCid hx (issuedCid i s)]
    exact byte_storeBytes s (.sq x.q) sp _ o _
  refine ⟨d, ?_⟩
  dsimp only
  rw [← hd]
  refine ⟨hfresh, hfirst, ?_⟩
  have hnvme : (issue i (setSlot i x s)).nvme = issuedNvme i x s := by rw [issue_setSlot hi]
  rw [hnvme, issuedNvme_queue]
  refine ⟨rfl, rfl, rfl, rfl, rfl, rfl, rfl, rfl, fun r hr => issuedNvme_queue_of_ne hr i s, hinit, hidentified, hcreated,
    hsize, hblock, fun j hj => ?_, fun sp o hout => ?_, ?_⟩
  · rw [hbytes, if_pos ⟨rfl, by omega, by omega⟩, Nat.add_sub_cancel_left]
    rfl
  · rw [hbytes, if_neg]
    rintro ⟨hsp, hrange⟩
    exact hout ⟨hsp.symm, hrange⟩
  · rw [issue_setSlot hi]

/-! ## Deliver, retry, or give up (rules R382, R386, R387) -/

variable {st : BitVec 15}

theorem settle_of_delivered (h : st = 0 ∨ st.getLsbD 14 = true ∨ (s.nvme.slot i).owner = .none) :
    settle i st s = deliver i st s := if_pos h

theorem not_delivered (hretry : st ≠ 0 ∧ st.getLsbD 14 = false) (howner : (s.nvme.slot i).owner ≠ .none) :
    ¬(st = 0 ∨ doNotRetry st = true ∨ (s.nvme.slot i).owner = .none) := by
  obtain ⟨hst, hbit⟩ := hretry
  rintro (hzero | hfinal | hnone)
  · exact hst hzero
  · exact Bool.false_ne_true (hbit.symm.trans hfinal)
  · exact howner hnone

theorem settle_of_retried (hretry : st ≠ 0 ∧ st.getLsbD 14 = false) (howner : (s.nvme.slot i).owner ≠ .none)
    (hleft : (s.nvme.slot i).retries < Config.nvmeRetryMax) :
    settle i st s = issue i (setSlot i { s.nvme.slot i with retries := (s.nvme.slot i).retries + 1 } s) :=
  (if_neg (not_delivered hretry howner)).trans (if_pos hleft)

theorem settle_of_exhausted_ctx (hretry : st ≠ 0 ∧ st.getLsbD 14 = false) (howner : (s.nvme.slot i).owner = .ctx)
    (hleft : Config.nvmeRetryMax ≤ (s.nvme.slot i).retries) :
    settle i st s = raiseFault .nvmeRetryExhausted (release i s) := by
  unfold settle
  dsimp only
  rw [if_neg (not_delivered hretry (by rw [howner]; decide)), if_neg (Nat.not_lt.mpr hleft), howner]

theorem settle_of_exhausted_init (hretry : st ≠ 0 ∧ st.getLsbD 14 = false) (howner : (s.nvme.slot i).owner = .init)
    (hleft : Config.nvmeRetryMax ≤ (s.nvme.slot i).retries) : settle i st s = deliver i st s := by
  unfold settle
  dsimp only
  rw [if_neg (not_delivered hretry (by rw [howner]; decide)), if_neg (Nat.not_lt.mpr hleft), howner]

/-! ## Delivery to the owner of the slot (rules R294, R383) -/

theorem deliver_orphan (h : (s.nvme.slot i).owner = .none) : deliver i st s = release i s := by
  simp only [deliver, h]

theorem deliver_ctx (h : (s.nvme.slot i).owner = .ctx) : deliver i st s = deliverCtx st (release i s) := by
  simp only [deliver, h]

theorem deliver_init_ok (h : (s.nvme.slot i).owner = .init) : deliver i 0 s = initOk (release i s) := by
  simp only [deliver, h, if_true]

theorem deliver_init_failed (h : (s.nvme.slot i).owner = .init) (hst : st ≠ 0) :
    deliver i st s = initFail (release i s) := by
  simp only [deliver, h, if_neg hst]

theorem settle_ctx_ok (h : (s.nvme.slot i).owner = .ctx) : settle i 0 s = deliverCtx 0 (release i s) :=
  (settle_of_delivered (.inl rfl)).trans (deliver_ctx h)

theorem settle_ctx_final (h : (s.nvme.slot i).owner = .ctx) (hbit : st.getLsbD 14 = true) :
    settle i st s = deliverCtx st (release i s) :=
  (settle_of_delivered (.inr (.inl hbit))).trans (deliver_ctx h)

theorem settle_init_ok (h : (s.nvme.slot i).owner = .init) : settle i 0 s = initOk (release i s) :=
  (settle_of_delivered (.inl rfl)).trans (deliver_init_ok h)

/-- The bring-up fails on a final status, and on a retryable one with no retries left. -/
theorem settle_init_failed (h : (s.nvme.slot i).owner = .init)
    (hst : (st ≠ 0 ∧ st.getLsbD 14 = true) ∨
      ((st ≠ 0 ∧ st.getLsbD 14 = false) ∧ Config.nvmeRetryMax ≤ (s.nvme.slot i).retries)) :
    settle i st s = initFail (release i s) := by
  obtain ⟨hne, hbit⟩ | ⟨hretry, hleft⟩ := hst
  · rw [settle_of_delivered (.inr (.inl hbit)), deliver_init_failed h hne]
  · rw [settle_of_exhausted_init hretry h hleft, deliver_init_failed h hretry.1]

/-! ## The context's command by its opcode (rules R282, R294, R317, R318, R355) -/

theorem deliverCtx_read (h : byteAt s.ctx.cdb 0 = 0x28) : deliverCtx st s =
    if st = 0 then sendChunk (chunkBlocks s * s.nvme.blockSize.toNat) s
    else checkCondition (senseOfStatus st (s.ctx.lba.setWidth 32)) s := if_pos h

theorem deliverCtx_write (h : byteAt s.ctx.cdb 0 = 0x2A) : deliverCtx st s =
    if st = 0 then nextOutChunk (advanceLba (chunkLen s.ctx) s)
    else checkCondition (senseOfStatus st (s.ctx.lba.setWidth 32)) s := by
  simp [deliverCtx, h]

theorem deliverCtx_synchronize (h : byteAt s.ctx.cdb 0 = 0x35) : deliverCtx st s =
    if st = 0 then finish 0 s else checkCondition (senseOfStatus st 0) s := by
  simp [deliverCtx, h]

theorem deliverCtx_passthrough (h : byteAt s.ctx.cdb 0 = 0xE6) : deliverCtx st s =
    if st = 0 then sendBuf s else checkCondition (senseOfStatus st 0) s := by
  simp [deliverCtx, h]

/-- READ(10): the chunk that was read is sent. -/
theorem deliverCtx_read_ok (h : byteAt s.ctx.cdb 0 = 0x28) : deliverCtx 0 s =
    sending s s.ctx (min (4096 / s.nvme.blockSize.toNat) s.ctx.blocksLeft.toNat * s.nvme.blockSize.toNat) :=
  (deliverCtx_read h).trans (if_pos rfl)

/-- WRITE(10): the LBA moves on by the chunk, and the next one is asked for or the command ends. -/
theorem deliverCtx_write_ok (h : byteAt s.ctx.cdb 0 = 0x2A) :
    let n := min 4096 (s.ctx.cmdLen.toNat - 4096 * s.ctx.chunkIdx) / s.nvme.blockSize.toNat
    Asked s (deliverCtx 0 s)
      { s.ctx with lba := s.ctx.lba + BitVec.ofNat 64 n, blocksLeft := s.ctx.blocksLeft - BitVec.ofNat 32 n,
                   chunkIdx := s.ctx.chunkIdx + 1 } (s.ctx.cmdLen - s.ctx.actual.setWidth 64).toNat := by
  rw [deliverCtx_write h, if_pos rfl]
  exact nextOutChunk_asks (advanceLba (chunkLen s.ctx) s)

theorem deliverCtx_synchronize_ok (h : byteAt s.ctx.cdb 0 = 0x35) :
    Ended s (deliverCtx 0 s) s.ctx s.sense s.nvme 0 ∧ Changes s (deliverCtx 0 s) inCsw := by
  rw [deliverCtx_synchronize h, if_pos rfl]
  exact ⟨finish_ended 0 s, finish_changes 0 s⟩

/-- 0xE6: the data in `STAGING` is sent, or the command ends where there is none. -/
theorem deliverCtx_passthrough_ok (h : byteAt s.ctx.cdb 0 = 0xE6) :
    if s.ctx.cmdLen = 0 then Ended s (deliverCtx 0 s) s.ctx s.sense s.nvme 0 ∧ Changes s (deliverCtx 0 s) inCsw
    else deliverCtx 0 s = sending s s.ctx s.ctx.cmdLen.toNat := by
  rw [deliverCtx_passthrough h, if_pos rfl, sendBuf]
  split
  case isTrue => exact ⟨finish_ended 0 s, finish_changes 0 s⟩
  case isFalse => rfl

/-- A failed transfer of the medium reports the LBA of its chunk. -/
theorem deliverCtx_medium_failed (h : byteAt s.ctx.cdb 0 = 0x28 ∨ byteAt s.ctx.cdb 0 = 0x2A) (hst : st ≠ 0) :
    Failed s (deliverCtx st s) (senseOfStatus st (s.ctx.lba.setWidth 32)) := by
  obtain h | h := h
  · rw [deliverCtx_read h, if_neg hst]
    exact checkCondition_failed ..
  · rw [deliverCtx_write h, if_neg hst]
    exact checkCondition_failed ..

theorem deliverCtx_other_failed (h : byteAt s.ctx.cdb 0 = 0x35 ∨ byteAt s.ctx.cdb 0 = 0xE6) (hst : st ≠ 0) :
    Failed s (deliverCtx st s) (senseOfStatus st 0) := by
  obtain h | h := h
  · rw [deliverCtx_synchronize h, if_neg hst]
    exact checkCondition_failed ..
  · rw [deliverCtx_passthrough h, if_neg hst]
    exact checkCondition_failed ..

/-! ## The bring-up (rule R395) -/

theorem initStep_submits {cmd : Instr} {e : Bytes} (h : encode cmd = .sqe .admin e) (step : InitStep) (s : State) :
    InitSubmits s (initStep step cmd s) step cmd := by
  refine ⟨e, h, ?_⟩
  rw [initStep, h]
  rfl

theorem initOk_of_idCtrl (h : s.nvme.init = .idCtrl) :
    InitSubmits s (initOk s) .idNs (.identify 0 Config.nsid Config.stagingPcieAddr 0 0) := by
  rw [initOk, h]
  exact initStep_submits rfl ..

theorem initOk_of_createCq (h : s.nvme.init = .createCq) : InitSubmits s (initOk s) .createSq
    (.createIoSq 0 (Config.sqPcieAddr .io) (BitVec.ofNat 16 (Config.queueDepth - 1) ++ (1#16)) 0x00010001) := by
  rw [initOk, h]
  exact initStep_submits rfl ..

theorem initOk_of_createSq (h : s.nvme.init = .createSq) :
    initOk s = { s with nvme := { s.nvme with ioCreated := true, identified := true, init := .done } } := by
  rw [initOk, h]

/-- The NSZE that Identify Namespace told is bytes 0 to 7 of `STAGING`. -/
theorem identNsze_eq (s : State) : identNsze s =
    ((s.byte .staging 7 ++ s.byte .staging 6) ++ (s.byte .staging 5 ++ s.byte .staging 4)) ++
      ((s.byte .staging 3 ++ s.byte .staging 2) ++ (s.byte .staging 1 ++ s.byte .staging 0)) := rfl

/-- LBADS is byte 2 of the format that the low half of byte 26 names. -/
theorem identLbads_eq (s : State) :
    identLbads s = s.byte .staging (128 + 4 * ((s.byte .staging 26).toNat % 16) + 2) := by
  have hformat : ((s.byte .staging 26).extractLsb' 0 4).toNat = (s.byte .staging 26).toNat % 16 := by simp
  rw [identLbads, hformat]

theorem blockSize_of_usable {b : Byte} (h : b = 9 ∨ b = 12) :
    (1 <<< b.toNat : BitVec 32) = if b = 9 then 512 else 4096 := by
  obtain rfl | rfl := h <;> rfl

/-- After Identify Namespace: a namespace the block cannot use fails the bring-up, another is cached. -/
theorem initOk_of_idNs (h : s.nvme.init = .idNs) :
    if identNsze s = 0 ∨ (identLbads s ≠ 9 ∧ identLbads s ≠ 12) then initOk s = initFail s
    else InitSubmits
      { s with nvme := { s.nvme with nsSize := identNsze s, blockSize := if identLbads s = 9 then 512 else 4096 } }
      (initOk s) .createCq
      (.createIoCq 0 (Config.cqPcieAddr .io) (BitVec.ofNat 16 (Config.queueDepth - 1) ++ (1#16)) 0x00000003) := by
  have hstep : initOk s = initNamespace s := by rw [initOk, h]
  rw [hstep, initNamespace]
  split
  case isTrue => rfl
  case isFalse husable =>
    rw [not_or, not_and_or, not_not, not_not] at husable
    obtain ⟨-, hlbads⟩ := husable
    rw [blockSize_of_usable hlbads]
    exact initStep_submits rfl ..

end

/-- Settles O59: by the owner of the slot and the status, then by the opcode of the context or the step of the bring-up. -/
theorem completionSettles : Obligations.CompletionSettles := by
  intro i st s hi
  dsimp only
  refine ⟨fun howner => ?_, ?_, ?_, ?_, ?_, fun howner hfinal hop => ?_, fun howner hfinal hop => ?_,
    fun howner hretry hleft hlen hsqe => ?_, fun howner hretry hleft => settle_of_exhausted_ctx hretry howner hleft,
    ?_, ?_, ?_, ?_, fun howner hst => settle_init_failed howner hst⟩
  case refine_1 => exact (settle_of_delivered (.inr (.inr howner))).trans (deliver_orphan howner)
  case refine_2 =>
    rintro howner rfl hop
    exact (settle_ctx_ok howner).trans (deliverCtx_read_ok (s := release i s) hop)
  case refine_3 =>
    rintro howner rfl hop
    rw [settle_ctx_ok howner]
    exact deliverCtx_write_ok (s := release i s) hop
  case refine_4 =>
    rintro howner rfl hop
    rw [settle_ctx_ok howner]
    exact deliverCtx_synchronize_ok (s := release i s) hop
  case refine_5 =>
    rintro howner rfl hop
    rw [settle_ctx_ok howner]
    exact deliverCtx_passthrough_ok (s := release i s) hop
  case refine_6 =>
    rw [settle_ctx_final howner hfinal.2]
    exact deliverCtx_medium_failed (s := release i s) hop hfinal.1
  case refine_7 =>
    rw [settle_ctx_final howner hfinal.2]
    exact deliverCtx_other_failed (s := release i s) hop hfinal.1
  case refine_8 =>
    rw [settle_of_retried hretry howner hleft]
    exact issue_setSlot_issued hi hlen hsqe
  case refine_9 =>
    rintro howner rfl hinit
    rw [settle_init_ok howner]
    exact initOk_of_idCtrl (s := release i s) hinit
  case refine_10 =>
    rintro howner rfl hinit
    rw [settle_init_ok howner, ← identLbads_eq, ← identNsze_eq]
    exact initOk_of_idNs (s := release i s) hinit
  case refine_11 =>
    rintro howner rfl hinit
    rw [settle_init_ok howner]
    exact initOk_of_createCq (s := release i s) hinit
  case refine_12 =>
    rintro howner rfl hinit
    exact (settle_init_ok howner).trans (initOk_of_createSq (s := release i s) hinit)

end Sys2Proof.Machine
end

section
/-! The standard SCSI commands and an unlisted opcode: the checks of `Decode` that fail with a sense of their own (O26, O28),
the commands without data (O29, O37), the responses in `STAGING` (O30 to O34), and the start of READ(10) and WRITE(10)
(O35, O36). -/

namespace Sys2Proof.Machine

section
variable {i : Instr} {s : State} {x : Sense} {dir : Dir} {lba : BitVec 32} {n : BitVec 16}

/-! ## A failed check of `Decode` (rules R285, R310, R321) -/

theorem failed_of_checkCondition (h : exec i s = .next (checkCondition x s)) : ∃ t, exec i s = .next t ∧ Failed s t x :=
  ⟨_, h, checkCondition_failed x s⟩

theorem runMedium_of_not_ready (h : ready s = false) (dir : Dir) (lba : BitVec 32) (n : BitVec 16) (body : State → State) :
    runMedium dir lba n body s = checkCondition senseNotReady s := if_pos h

theorem runMedium_of_out_of_range (hready : ready s = true) (hrange : s.nvme.nsSize.toNat < lba.toNat + n.toNat) (dir : Dir)
    (body : State → State) : runMedium dir lba n body s = checkCondition senseLbaRange s := by
  have hout : lbaOutOfRange lba n s = true := decide_eq_true hrange
  rw [runMedium, if_neg (by simp [hready]), if_pos hout]

theorem runAdmin_of_link_down (h : s.link.state ≠ .ready ∨ s.link.pcieLinkUp = false) (opc : Byte) (rest : BitVec 112)
    (cmd : Instr) : runAdmin opc rest cmd s = checkCondition senseNotReady s := by
  have hdown : ¬(s.link.state = .ready ∧ s.link.pcieLinkUp = true) := by
    rw [not_and_or, Bool.not_eq_true]
    exact h
  exact if_neg hdown

/-- The commands of the namespace ask for `Ready()`. -/
theorem exec_of_not_ready (h : ready s = false)
    (hi : (∃ lba n, i = .read10 lba n ∨ i = .write10 lba n) ∨ i = .readCapacity10 ∨ i = .synchronizeCache) :
    exec i s = .next (checkCondition senseNotReady s) := by
  have hnot : ¬ready s = true := Bool.eq_false_iff.mp h
  obtain ⟨lba, n, rfl | rfl⟩ | rfl | rfl := hi
  · exact congrArg Host.Outcome.next (runMedium_of_not_ready h .dirIn lba n readNextChunk)
  · exact congrArg Host.Outcome.next (runMedium_of_not_ready h .dirOut lba n writeNextChunk)
  · exact congrArg Host.Outcome.next (if_neg hnot)
  · exact congrArg Host.Outcome.next (if_neg hnot)

/-- 0xE6 asks for the link. -/
theorem exec_of_link_down (h : s.link.state ≠ .ready ∨ s.link.pcieLinkUp = false)
    (hi : ∃ rest, i = .vendorE6_02 rest ∨ i = .vendorE6_06 rest) :
    exec i s = .next (checkCondition senseNotReady s) := by
  obtain ⟨rest, rfl | rfl⟩ := hi
  · exact congrArg Host.Outcome.next (runAdmin_of_link_down h ..)
  · exact congrArg Host.Outcome.next (runAdmin_of_link_down h ..)

theorem exec_medium_of_out_of_range (hi : i = .read10 lba n ∨ i = .write10 lba n) (hready : ready s = true)
    (hrange : s.nvme.nsSize.toNat < lba.toNat + n.toNat) : exec i s = .next (checkCondition senseLbaRange s) := by
  obtain rfl | rfl := hi
  · exact congrArg Host.Outcome.next (runMedium_of_out_of_range hready hrange .dirIn readNextChunk)
  · exact congrArg Host.Outcome.next (runMedium_of_out_of_range hready hrange .dirOut writeNextChunk)

/-! ## Commands without data (rule R277) -/

theorem phaseOk_no_data (s : State) (dir : Dir) : phaseOk s dir 0 := ⟨.inl rfl, Nat.zero_le _⟩

/-- The state in which the body of a command without data runs. -/
def executingNoData (s : State) : State :=
  { s with ctx := { s.ctx with cmdDir := .dirNone, cmdLen := 0, state := .executing } }

theorem runCdb_no_data (s : State) (body : State → State) : runCdb .dirNone 0 body s = body (executingNoData s) :=
  runCdb_ok (phaseOk_no_data s .dirNone) body

theorem ready_iff (s : State) : ready s = true ↔ s.link.state = .ready ∧ s.nvme.identified = true := by
  simp [ready]

/-! ## Responses of class `IN_BUF` (rules R281, R324) -/

/-- A command whose body stores a response and sends it; `u` is `s` with what else the body changes. -/
theorem runCdb_answered {len : BitVec 64} {m : Nat} {u : State} {resp : Bytes} {body : State → State}
    (hlen : len.toNat = m) (hphase : phaseOk s .dirIn m)
    (hbody : ∀ c, body { s with ctx := c } = sendBuf (storeBytes .staging 0 resp { u with ctx := c })) :
    Answered u (runCdb .dirIn len body s) { s.ctx with cmdDir := .dirIn, cmdLen := len } m resp ∧
      Changes u (runCdb .dirIn len body s) (answerBytes m resp.length) := by
  subst hlen
  rw [runCdb_ok hphase, hbody]
  exact sendBuf_answered u { s.ctx with cmdDir := .dirIn, cmdLen := len } resp

/-- The same with the length cut by the allocation length. -/
theorem runCdb_cutLen_answered {full alloc : Nat} {u : State} {resp : Bytes} {body : State → State}
    (hfull : full < 2 ^ 64) (hphase : phaseOk s .dirIn (min full alloc))
    (hbody : ∀ c, body { s with ctx := c } = sendBuf (storeBytes .staging 0 resp { u with ctx := c })) :
    Answered u (runCdb .dirIn (cutLen full alloc) body s)
      { s.ctx with cmdDir := .dirIn, cmdLen := BitVec.ofNat 64 (min full alloc) } (min full alloc) resp ∧
      Changes u (runCdb .dirIn (cutLen full alloc) body s) (answerBytes (min full alloc) resp.length) :=
  runCdb_answered (toNat_cutLen hfull alloc) hphase hbody

/-- The last LBA does not wrap, as the namespace is not empty. -/
theorem capacityBytes_eq {nsSize : BitVec 64} (h : nsSize ≠ 0) (blockSize : BitVec 32) :
    capacityBytes nsSize blockSize =
      putBE32 (BitVec.ofNat 32 (min (nsSize.toNat - 1) 0xFFFFFFFF)) ++ putBE32 blockSize := by
  have hlast : (nsSize - 1).toNat = nsSize.toNat - 1 := by bv_omega
  rw [capacityBytes, hlast]

/-! ## The start of READ(10) and WRITE(10) (rules R282, R316, R317) -/

/-- The context that `Decode` of READ(10) and WRITE(10) leaves. -/
def mediumContext (dir : Dir) (lba : BitVec 32) (n : BitVec 16) (s : State) : Ctx :=
  { s.ctx with cmdDir := dir, cmdLen := BitVec.ofNat 64 (n.toNat * s.nvme.blockSize.toNat),
               lba := lba.setWidth 64, blocksLeft := n.setWidth 32 }

theorem ofNat_blocksLen (n : BitVec 16) (s : State) :
    BitVec.ofNat 64 (n.toNat * s.nvme.blockSize.toNat) = blocksLen n s := by
  rw [← toNat_blocksLen, BitVec.ofNat_toNat, BitVec.setWidth_eq]

theorem toNat_mediumContext_cmdLen (dir : Dir) (lba : BitVec 32) (n : BitVec 16) (s : State) :
    (mediumContext dir lba n s).cmdLen.toNat = n.toNat * s.nvme.blockSize.toNat := by
  rw [mediumContext, ofNat_blocksLen, toNat_blocksLen]

/-- In range and with no phase error the body runs in `EXECUTING`. -/
theorem runMedium_ok (hready : ready s = true) (hrange : lba.toNat + n.toNat ≤ s.nvme.nsSize.toNat)
    (hphase : phaseOk s dir (n.toNat * s.nvme.blockSize.toNat)) (body : State → State) :
    runMedium dir lba n body s = body { s with ctx := { mediumContext dir lba n s with state := .executing } } := by
  rw [← toNat_blocksLen] at hphase
  rw [runMedium_of_checks body ⟨hready, hrange⟩, mediumContext, ofNat_blocksLen]
  exact runCdb_ok ((phaseOk_withOperands (.read10 lba n) s dir _).mpr hphase) body

/-- The staging buffer holds a block, so a chunk of a command with blocks left has one. -/
theorem chunkBlocks_pos (hblock : s.nvme.blockSize = 512 ∨ s.nvme.blockSize = 4096) (hn : n ≠ 0) :
    0 < min (4096 / s.nvme.blockSize.toNat) n.toNat := by
  have hleft : 0 < n.toNat := Nat.pos_of_ne_zero fun h => hn (BitVec.eq_of_toNat_eq h)
  have hchunk : 0 < 4096 / s.nvme.blockSize.toNat := by
    obtain h | h := hblock <;> rw [h] <;> decide
  exact Nat.lt_min.mpr ⟨hchunk, hleft⟩

/-- The first chunk of READ(10) is the NVMe Read from its LBA. -/
theorem readNextChunk_first (hblock : s.nvme.blockSize = 512 ∨ s.nvme.blockSize = 4096) (hn : n ≠ 0) :
    Submits s (readNextChunk { s with ctx := { mediumContext dir lba n s with state := .executing } })
      (mediumContext dir lba n s) .io (.nvmeRead 0 Config.nsid Config.stagingPcieAddr (lba.setWidth 64)
        (BitVec.ofNat 16 (min (4096 / s.nvme.blockSize.toNat) n.toNat - 1))) := by
  have hwide : (n.setWidth 32).toNat = n.toNat := BitVec.toNat_setWidth_of_le (by decide)
  have hleft : n.setWidth 32 ≠ 0 := fun h => hn (BitVec.eq_of_toNat_eq (by rw [← hwide, h]; rfl))
  rw [← BitVec.ofNat_sub_ofNat_of_le _ 1 (by decide) (chunkBlocks_pos hblock hn), ← hwide]
  have hsubmits := readNextChunk_submits
    (s := { s with ctx := { mediumContext dir lba n s with state := .executing } }) hleft
  exact hsubmits

end

/-! ## The obligations -/

/-- Settles O26: the failed check of each command raises NOT READY. -/
theorem notReadyEnds : Obligations.NotReadyEnds := by
  rintro i s (⟨hi, hready⟩ | ⟨hi, hlink⟩)
  · exact failed_of_checkCondition (exec_of_not_ready hready hi)
  · exact failed_of_checkCondition (exec_of_link_down hlink hi)

/-- Settles O28: each of the three raises its own ILLEGAL REQUEST sense before the frame. -/
theorem illegalRequestEnds : Obligations.IllegalRequestEnds :=
  ⟨fun _ _ => failed_of_checkCondition rfl, fun _ _ _ => failed_of_checkCondition rfl,
    fun _ _ _ _ hi hready hrange => failed_of_checkCondition (exec_medium_of_out_of_range hi hready hrange)⟩

/-- Settles O29: the frame always runs the body, which ends by `Ready()`. -/
theorem testUnitReady : Obligations.TestUnitReady := by
  intro s
  refine ⟨_, congrArg Host.Outcome.next (runCdb_no_data s _), ?_⟩
  by_cases hready : s.link.state = .ready ∧ s.nvme.identified = true
  · rw [if_pos hready, if_pos ((ready_iff (executingNoData s)).mpr hready)]
    exact ⟨finish_changes 0 (executingNoData s), finish_ended 0 (executingNoData s)⟩
  · rw [if_neg hready, if_neg (mt (ready_iff (executingNoData s)).mp hready)]
    obtain ⟨hended, hchanges⟩ := checkCondition_failed senseNotReady (executingNoData s)
    exact ⟨hchanges, hended⟩

/-- Settles O30: the response is built from the old sense record, and sent with the record cleared. -/
theorem requestSense : Obligations.RequestSense := fun s _ hphase =>
  ⟨_, rfl, runCdb_cutLen_answered (u := { s with sense := .none }) (resp := senseBytes s.sense) (by decide) hphase
    fun _ => rfl⟩

/-- Settles O31: without `EVPD` the frame runs. -/
theorem inquiry : Obligations.Inquiry := fun s _ _ hphase =>
  ⟨_, congrArg Host.Outcome.next (if_neg Bool.false_ne_true),
    runCdb_cutLen_answered (u := s) (resp := inquiryBytes) (by decide) hphase fun _ => rfl⟩

/-- Settles O32: the page code and the page control do not reach the response. -/
theorem modeSense : Obligations.ModeSense := fun s _ _ _ hphase =>
  ⟨_, rfl, runCdb_cutLen_answered (u := s) (resp := modeSenseBytes) (by decide) hphase fun _ => rfl⟩

/-- Settles O33: a ready block runs the frame, and the last LBA is computed without wrap. -/
theorem readCapacity : Obligations.ReadCapacity := by
  intro s hready hsize hphase
  rw [← capacityBytes_eq hsize]
  exact ⟨_, congrArg Host.Outcome.next (if_pos hready), runCdb_answered rfl hphase fun _ => rfl⟩

/-- Settles O34: the cut response is sent by the frame of `IN_BUF`. -/
theorem reportLuns : Obligations.ReportLuns := fun s _ hphase =>
  ⟨_, rfl, runCdb_cutLen_answered (u := s) (resp := lunBytes) (by decide) hphase fun _ => rfl⟩

/-- Settles O35: no block ends the command, else the first chunk is read. -/
theorem read10 : Obligations.Read10 := by
  intro s lba n hready hrange hblock hphase
  refine ⟨_, congrArg Host.Outcome.next (runMedium_ok hready hrange hphase readNextChunk), ?_⟩
  dsimp only
  by_cases hn : n = 0
  · have hnone : (mediumContext .dirIn lba n s).blocksLeft = 0 := by rw [hn]; rfl
    rw [if_pos hn, readNextChunk_of_none_left hnone]
    exact ⟨finish_ended 0 _, finish_changes 0 _⟩
  · rw [if_neg hn]
    exact readNextChunk_first hblock hn

/-- Settles O36: the first chunk is asked of the host. -/
theorem write10 : Obligations.Write10 := by
  intro s lba n hready hrange hactual hphase
  refine ⟨_, congrArg Host.Outcome.next (runMedium_ok hready hrange hphase writeNextChunk), ?_⟩
  have hasked := writeNextChunk_asked s (mediumContext .dirOut lba n s) hactual
  rw [toNat_mediumContext_cmdLen] at hasked
  exact hasked

/-- Settles O37: a ready block runs the frame, whose body builds the Flush. -/
theorem synchronizeCache : Obligations.SynchronizeCache := by
  intro s hready
  exact ⟨_, congrArg Host.Outcome.next ((if_pos hready).trans (runCdb_no_data s _)), _, rfl, rfl⟩

end Sys2Proof.Machine
end

section
/-! The vendor commands: the errors of `Decode` (O27), the effects owed after the CSW (O44), the admin passthrough (O43), the
flash reads (O38) and writes (O39), and the two register commands (O40, O41). -/

namespace Sys2Proof.Machine

section
variable {i : Instr} {s t : State}

/-- The state in which the body of a command runs with context `c` (rule R276). -/
def executingWith (c : Ctx) (s : State) : State := { s with ctx := { c with state := .executing } }

/-! ## A vendor command error (rules R342, R343) -/

theorem failed_of_vendorError (h : exec i s = .next (vendorError s)) : ∃ t, exec i s = .next t ∧ Failed s t s.sense :=
  ⟨_, h, vendorError_failed s⟩

theorem badRegRange_of_range {size : BitVec 8} {addr : BitVec 24}
    (h : 64 < size.toNat ∨ 0xFFFF < addr.toNat ∨ 0x10000 < addr.toNat + size.toNat) : badRegRange size addr = true := by
  have hmax : Config.xdataReadMax = 64 := rfl
  simpa [badRegRange, hmax, or_assoc] using h

/-- The catch-all rows. -/
theorem exec_badSub (h : ∃ sub, i = .vendorE0BadSub sub ∨ i = .vendorE1BadSub sub ∨ i = .vendorE3BadSub sub ∨
    i = .vendorE6BadSub sub ∨ i = .vendorE8BadSub sub) : exec i s = .next (vendorError s) := by
  obtain ⟨sub, rfl | rfl | rfl | rfl | rfl⟩ := h <;> rfl

/-- A command whose check of its operands is the first thing it does. -/
theorem exec_of_failed_check {c : Prop} [Decidable c] {r : State} (hexec : exec i s = .next (if c then vendorError s else r))
    (h : c) : exec i s = .next (vendorError s) := by
  rw [hexec, if_pos h]

/-! ## Commands without data whose effect follows the CSW (rules R356 to R358) -/

/-- The command ends PASSED with `a` owed; `u` is the state with what else the command did. -/
theorem finishThen_ended (a : AfterCsw) (u : State) :
    Changes u (finishThen a (executingNoData u)) inCsw ∧
      Ended u (finishThen a (executingNoData u)) { u.ctx with cmdDir := .dirNone, cmdLen := 0, afterCsw := a } u.sense
        u.nvme 0 :=
  ⟨finish_changes 0 { executingNoData u with ctx := { (executingNoData u).ctx with afterCsw := a } },
    finish_ended 0 { executingNoData u with ctx := { (executingNoData u).ctx with afterCsw := a } }⟩

/-! ## The admin passthrough (rules R129, R355) -/

/-- With the link up and no phase error the command is built for its queue and handed to the sequencer. -/
theorem runAdmin_submits {opc : Byte} {rest : BitVec 112} {cmd : Instr} {q : QueueId} {e : Bytes}
    (hlink : s.link.state = .ready ∧ s.link.pcieLinkUp = true) (hphase : phaseOk s .dirIn (e6Len opc rest).toNat)
    (henc : encode cmd = .sqe q e) :
    Submits s (runAdmin opc rest cmd s) { s.ctx with cmdDir := .dirIn, cmdLen := e6Len opc rest } q cmd := by
  refine ⟨e, henc, ?_⟩
  rw [runAdmin, if_pos hlink, runCdb_ok hphase, henc]
  rfl

/-! ## Reading the flash (rules R343, R344, R347) -/

/-- The bytes are sent where the driver reads them or there are none to read, else the command fails. -/
theorem runCdb_sendFlash {len : BitVec 64} {n : Nat} (a : Nat) (hlen : len.toNat = n) (hphase : phaseOk s .dirIn n) :
    if n = 0 ∨ s.flashOk = true then
      Answered s (runCdb .dirIn len (sendFlash a n) s) { s.ctx with cmdDir := .dirIn, cmdLen := len } n
        ((List.range n).map fun i => s.byte .flash (a + i)) ∧
      Changes s (runCdb .dirIn len (sendFlash a n) s) (answerBytes n n)
    else
      Ended s (runCdb .dirIn len (sendFlash a n) s) { s.ctx with cmdDir := .dirIn, cmdLen := len } s.sense
        (orphaned s.nvme) 1 ∧
      Changes s (runCdb .dirIn len (sendFlash a n) s) inCsw := by
  split
  case isTrue hread =>
    have hanswered := runCdb_answered (s := s) (u := s) (resp := s.bytes .flash a n) (body := sendFlash a n) hlen hphase
      fun _ => if_pos hread
    rwa [length_bytes, bytes_eq] at hanswered
  case isFalse hfail =>
    subst hlen
    rw [runCdb_ok hphase, sendFlash, if_neg hfail]
    exact vendorError_failed (executingWith { s.ctx with cmdDir := .dirIn, cmdLen := len } s)

/-! ## Asking for the bytes of a flash write (rules R283, R345, R348) -/

theorem runCdb_asks {len : BitVec 64} {n : Nat} (hlen : len.toNat = n) (hactual : s.ctx.actual = 0)
    (hphase : phaseOk s .dirOut n) :
    Asked s (runCdb .dirOut len writeNextChunk s) { s.ctx with cmdDir := .dirOut, cmdLen := BitVec.ofNat 64 n } n := by
  subst hlen
  rw [runCdb_ok hphase, BitVec.ofNat_toNat, BitVec.setWidth_eq]
  exact writeNextChunk_asked s { s.ctx with cmdDir := .dirOut, cmdLen := len } hactual

theorem runStream_asks {p : FwPart} {n : BitVec 32} (hfit : p.base + (s.fw.cursor p).toNat + n.toNat ≤ p.lim)
    (hactual : s.ctx.actual = 0) (hphase : phaseOk s .dirOut n.toNat) :
    Asked s (runStream p n s) { s.ctx with cmdDir := .dirOut, cmdLen := BitVec.ofNat 64 n.toNat } n.toNat := by
  rw [runStream, if_neg (Nat.not_lt.mpr hfit)]
  exact runCdb_asks (BitVec.toNat_setWidth_of_le (by decide)) hactual hphase

/-! ## Reading registers (rules R89, R160, R352) -/

/-- A read of the address changes the byte there: the address is the backing array's and of class `RSE` (rule R88). -/
abbrev ReadChanges (a : BitVec 16) : Prop := target a = .plain ∧ Config.policy a = .rse

/-- A read sees nothing of the context, and of memory only the byte at its address. -/
theorem regReadVal_congr {a : BitVec 16} {c : Ctx} {m : Memory}
    (h : ({ s with ctx := c, mem := m } : State).byte .reg a.toNat = s.byte .reg a.toNat) :
    regReadVal a { s with ctx := c, mem := m } = regReadVal a s := by
  unfold regReadVal
  cases target a with
  | role r =>
    cases r with
    | sqTailDb q | cqHeadDb q => cases q <;> rfl
    | _ => rfl
  | ring off => rfl
  | plain => simp only [h]

/-- A byte after the bus read of one address into `STAGING`. -/
theorem byte_regToStaging (a : BitVec 16) (o : Nat) (s : State) (sp : Space) (p : Nat) :
    (regToStaging a o s).byte sp p =
      if Space.staging = sp ∧ o = p then regReadVal a s
      else if Space.reg = sp ∧ a.toNat = p ∧ ReadChanges a then Config.rseNext a (s.byte .reg p)
      else s.byte sp p := by
  have hmem : memByte s.epoch (regReadMem a s) sp p =
      if Space.reg = sp ∧ a.toNat = p ∧ ReadChanges a then Config.rseNext a (s.byte .reg p) else s.byte sp p := by
    unfold regReadMem ReadChanges
    cases target a with
    | role r => simp [State.byte]
    | ring off => simp [State.byte]
    | plain =>
      cases Config.policy a with
      | rse =>
        rw [memByte_write]
        by_cases hat : Space.reg = sp ∧ a.toNat = p
        · obtain ⟨rfl, rfl⟩ := hat
          simp
        · rw [if_neg hat, if_neg fun h => hat ⟨h.1, h.2.1⟩]
          rfl
      | rw | ro | w1c | wse | unmapped => simp [State.byte]
  rw [← hmem]
  exact memByte_write _ _ _ _ _ _ _

/-- The reads draw free values and change nothing but memory. -/
theorem regBlock_eq (n : Nat) (a : BitVec 16) (o : Nat) (s : State) :
    regBlock n a o s = { s with mem := (regBlock n a o s).mem, free := s.free + n } := by
  induction n generalizing a o s with
  | zero => rfl
  | succ n ih =>
    rw [regBlock, ih]
    simp [regToStaging, Nat.add_assoc, Nat.add_comm 1]

theorem regBlock_succ (n x o : Nat) (s : State) :
    regBlock (n + 1) (BitVec.ofNat 16 x) o s =
      regBlock n (BitVec.ofNat 16 (x + 1)) (o + 1) (regToStaging (BitVec.ofNat 16 x) o s) := by
  rw [BitVec.ofNat_add x 1]
  rfl

theorem toNat_ofNat16 {x : Nat} (h : x < 0x10000) : (BitVec.ofNat 16 x).toNat = x := by
  rw [BitVec.toNat_ofNat, Nat.mod_eq_of_lt h]

/-- The reads of `n` addresses from `x` reach the answer's place and the addresses that a read changes. -/
theorem regBlock_changes {n x : Nat} (hx : x + n ≤ 0x10000) (o : Nat) (s : State) :
    Changes s (regBlock n (BitVec.ofNat 16 x) o s) (fun sp p => (sp = .staging ∧ o ≤ p ∧ p < o + n) ∨
      (sp = .reg ∧ x ≤ p ∧ p < x + n ∧ ReadChanges (BitVec.ofNat 16 p))) := by
  induction n generalizing x o s with
  | zero => exact fun _ _ _ => rfl
  | succ n ih =>
    intro sp p hout
    rw [not_or] at hout
    obtain ⟨hstaging, hreg⟩ := hout
    rw [regBlock_succ, ih (by omega), byte_regToStaging, toNat_ofNat16 (by omega), if_neg, if_neg]
    · rintro ⟨rfl, rfl, hchanges⟩
      exact hreg ⟨rfl, by omega, by omega, hchanges⟩
    · rintro ⟨rfl, rfl⟩
      exact hstaging ⟨rfl, by omega, by omega⟩
    · rintro (⟨rfl, hlo, hhi⟩ | ⟨rfl, hlo, hhi, hchanges⟩)
      · exact hstaging ⟨rfl, by omega, by omega⟩
      · exact hreg ⟨rfl, by omega, by omega, hchanges⟩

/-- An address that a read changes is read once. -/
theorem byte_regBlock_reg {n x p : Nat} (hx : x + n ≤ 0x10000) (hlo : x ≤ p) (hhi : p < x + n)
    (hchanges : ReadChanges (BitVec.ofNat 16 p)) (o : Nat) (s : State) :
    (regBlock n (BitVec.ofNat 16 x) o s).byte .reg p = Config.rseNext (BitVec.ofNat 16 p) (s.byte .reg p) := by
  induction n generalizing x o s with
  | zero => omega
  | succ n ih =>
    have hfirst := byte_regToStaging (BitVec.ofNat 16 x) o s .reg p
    rw [if_neg (by simp), toNat_ofNat16 (by omega)] at hfirst
    rw [regBlock_succ]
    obtain rfl | hlt := Nat.eq_or_lt_of_le hlo
    · rw [if_pos ⟨rfl, rfl, hchanges⟩] at hfirst
      rw [regBlock_changes (by omega), hfirst]
      rintro (⟨h, -⟩ | ⟨-, h, -⟩)
      · cases h
      · omega
    · rw [if_neg fun h => by omega] at hfirst
      rw [ih (by omega) (by omega) (by omega), hfirst]

/-- The answer of each read is what it was before the earlier ones, but for the free value: they read other addresses. -/
theorem byte_regBlock_staging {n x i : Nat} (hx : x + n ≤ 0x10000) (hi : i < n) (o : Nat) (s : State) :
    (regBlock n (BitVec.ofNat 16 x) o s).byte .staging (o + i) =
      regReadVal (BitVec.ofNat 16 (x + i)) { s with free := s.free + i } := by
  induction n generalizing x i o s with
  | zero => omega
  | succ n ih =>
    rw [regBlock_succ]
    cases i with
    | zero =>
      rw [regBlock_changes (by omega), byte_regToStaging, if_pos ⟨rfl, rfl⟩]
      · rfl
      · rintro (⟨-, h, -⟩ | ⟨h, -⟩)
        · omega
        · cases h
    | succ i =>
      have hplace : o + (i + 1) = o + 1 + i := by omega
      have haddr : x + (i + 1) = x + 1 + i := by omega
      have hfree : s.free + (i + 1) = s.free + 1 + i := by omega
      rw [hplace, haddr, hfree, ih (by omega) (by omega)]
      refine regReadVal_congr (s := { s with free := s.free + 1 + i }) (c := s.ctx) ?_
      have hbyte := byte_regToStaging (BitVec.ofNat 16 x) o s .reg (BitVec.ofNat 16 (x + 1 + i)).toNat
      rw [if_neg (by simp), toNat_ofNat16 (by omega), toNat_ofNat16 (by omega), if_neg fun h => by omega] at hbyte
      rw [toNat_ofNat16 (by omega)]
      exact hbyte

/-- A response that the body has put into `STAGING` is sent (rule R281): `v` is the state before the sending, in which `u`
has changed in memory alone. -/
theorem sendBuf_answers {u v : State} {c : Ctx} {resp : Bytes}
    (hv : v = { u with ctx := { c with state := .executing }, mem := v.mem })
    (hresp : ∀ i, i < resp.length → v.byte .staging i = byteAt resp i) :
    Answered u (sendBuf v) c c.cmdLen.toNat resp ∧
      Changes v (sendBuf v) (fun sp o => c.cmdLen.toNat = 0 ∧ inCsw sp o) := by
  have hlen : v.ctx.cmdLen = c.cmdLen := by rw [hv]
  by_cases h0 : c.cmdLen = 0
  · have hnone : c.cmdLen.toNat = 0 := by rw [h0]; rfl
    have hend : sendBuf v = finish 0 v := if_pos (hlen.trans h0)
    obtain ⟨hended, hcsw⟩ := finish_ended 0 v
    rw [hend]
    refine ⟨⟨fun hpos => absurd hnone hpos.ne', fun _ => ⟨?_, ?_⟩, fun i hi => ?_⟩, fun sp o hout => ?_⟩
    · rw [hv] at hended ⊢
      exact hended
    · rw [hv] at hcsw ⊢
      exact hcsw
    · rw [finish_changes 0 v .staging i fun h => by cases h.1]
      exact hresp i hi
    · exact finish_changes 0 v sp o fun h => hout ⟨hnone, h⟩
  · have hsome : c.cmdLen.toNat ≠ 0 := fun h => h0 (BitVec.eq_of_toNat_eq h)
    have hsend : sendBuf v = sendChunk c.cmdLen.toNat v := by rw [sendBuf, hlen, if_neg h0]
    rw [hsend]
    refine ⟨⟨fun _ => ?_, fun h => absurd h hsome, hresp⟩, fun _ _ _ => rfl⟩
    rw [hv]
    rfl

/-- The answer is the reads' in ascending order, and what follows the reads is the sending of any response. -/
theorem regBlock_answered {n x : Nat} {c : Ctx} (hx : x + n ≤ 0x10000) (hlen : c.cmdLen.toNat = n) :
    Answered { s with free := s.free + n } (sendBuf (regBlock n (BitVec.ofNat 16 x) 0 (executingWith c s))) c n
      ((List.range n).map fun i => regReadVal (BitVec.ofNat 16 (x + i)) { s with free := s.free + i }) ∧
    Changes (regBlock n (BitVec.ofNat 16 x) 0 (executingWith c s))
      (sendBuf (regBlock n (BitVec.ofNat 16 x) 0 (executingWith c s))) (fun sp o => n = 0 ∧ inCsw sp o) := by
  subst hlen
  refine sendBuf_answers (regBlock_eq _ _ 0 (executingWith c s)) fun i hi => ?_
  have hin : i < c.cmdLen.toNat := by simpa using hi
  have hread := byte_regBlock_staging hx hin 0 (executingWith c s)
  rw [Nat.zero_add] at hread
  calc (regBlock c.cmdLen.toNat (BitVec.ofNat 16 x) 0 (executingWith c s)).byte .staging i
      = regReadVal (BitVec.ofNat 16 (x + i)) { executingWith c s with free := s.free + i } := hread
    _ = regReadVal (BitVec.ofNat 16 (x + i)) { s with free := s.free + i } :=
        regReadVal_congr (s := { s with free := s.free + i }) (m := s.mem) rfl
    _ = _ := by simp [byteAt, hin]

/-- In range and with no phase error 0xE4 reads and sends. -/
theorem exec_vendorE4 {size : BitVec 8} {addr : BitVec 24}
    (hrange : size.toNat ≤ 64 ∧ addr.toNat ≤ 0xFFFF ∧ addr.toNat + size.toNat ≤ 0x10000)
    (hphase : phaseOk s .dirIn (size.setWidth 64).toNat) :
    exec (.vendorE4 size addr) s = .next (sendBuf (regBlock size.toNat (BitVec.ofNat 16 addr.toNat) 0
      (executingWith { s.ctx with cmdDir := .dirIn, cmdLen := size.setWidth 64 } s))) := by
  have hregAddr : regAddr addr = BitVec.ofNat 16 addr.toNat := BitVec.eq_of_toNat_eq (by simp [regAddr])
  rw [← hregAddr]
  exact congrArg Host.Outcome.next ((if_neg (not_badRegRange hrange)).trans (runCdb_ok hphase fun t =>
    sendBuf (regBlock size.toNat (regAddr addr) 0 t)))

/-! ## Writing a register (rules R354, R361, R471) -/

theorem writeResets_iff (a : BitVec 16) (v : Byte) : writeResets a v = true ↔ target a = .role .cpuReset ∧ v = 0xA5 := by
  simp [writeResets, Config.resetMagic]

/-- A bus write that does not reset the block neither sees nor changes the context, and keeps the sense. -/
theorem regWrite_with_ctx {a : BitVec 16} {v : Byte} (h : writeResets a v = false) (s : State) (c : Ctx) :
    regWrite a v { s with ctx := c } = { regWrite a v s with ctx := c } ∧ (regWrite a v s).sense = s.sense := by
  unfold regWrite
  cases ht : target a with
  | role r =>
    cases r with
    | cpuReset =>
      have hv : v ≠ Config.resetMagic := by simpa [writeResets, ht] using h
      simp [roleWrite, hv]
    | usbEpStall =>
      simp only [roleWrite]
      cases hasBit .haltIn v <;> cases hasBit .haltOut v <;> exact ⟨rfl, rfl⟩
    | dmaStart =>
      simp only [roleWrite]
      cases v.getLsbD 0 <;> exact ⟨rfl, rfl⟩
    | _ => exact ⟨rfl, rfl⟩
  | ring | plain => exact ⟨rfl, rfl⟩

/-- The command ends after the write, whose effects stay. -/
theorem regWrite_ended {a : BitVec 16} {v : Byte} (h : writeResets a v = false) (s : State) :
    let c := { s.ctx with cmdDir := .dirNone, cmdLen := 0 }
    let u := regWrite a v { s with ctx := c }
    Ended u (finish 0 (regWrite a v (executingNoData s))) c s.sense u.nvme 0 ∧
      Changes u (finish 0 (regWrite a v (executingNoData s))) inCsw := by
  intro c u
  obtain ⟨hctx, hsense⟩ := regWrite_with_ctx h { s with ctx := c } { c with state := .executing }
  have hrun : regWrite a v (executingNoData s) = executingWith c u := hctx
  have hkept : u.sense = s.sense := hsense
  rw [hrun, ← hkept]
  exact ⟨finish_ended 0 (executingWith c u), finish_changes 0 (executingWith c u)⟩

/-- In range 0xE5 always runs its body, as it has no data. -/
theorem exec_vendorE5 {value : BitVec 8} {addr : BitVec 24} (haddr : addr.toNat ≤ 0xFFFF) :
    exec (.vendorE5 value addr) s = .next (if writeResets (addr.extractLsb' 0 16) value then powerOn s
      else finish 0 (regWrite (addr.extractLsb' 0 16) value (executingNoData s))) :=
  congrArg Host.Outcome.next ((if_neg (Nat.not_lt.mpr haddr)).trans (runCdb_no_data s fun t =>
    if writeResets (regAddr addr) value then powerOn t else finish 0 (regWrite (regAddr addr) value t)))

end

/-! ## The obligations -/

/-- Settles O27: each failed check of `Decode`, and each catch-all row, raises the vendor error before the frame. -/
theorem vendorErrorEnds : Obligations.VendorErrorEnds := by
  rintro i s (hsub | ⟨n, rfl | rfl, hn⟩ | ⟨n, rfl, hn⟩ | ⟨n, rfl, hn⟩ | ⟨n, rfl, hn⟩ | ⟨n, a, rfl, hrange⟩ |
    ⟨v, a, rfl, ha⟩)
  · exact failed_of_vendorError (exec_badSub hsub)
  · exact failed_of_vendorError (exec_of_failed_check rfl hn)
  · exact failed_of_vendorError (exec_of_failed_check rfl hn)
  · exact failed_of_vendorError (exec_of_failed_check rfl hn)
  · exact failed_of_vendorError (exec_of_failed_check rfl hn)
  · exact failed_of_vendorError (exec_of_failed_check rfl hn)
  · exact failed_of_vendorError (exec_of_failed_check rfl (badRegRange_of_range hrange))
  · exact failed_of_vendorError (exec_of_failed_check rfl ha)

/-- Settles O38: both commands read the flash in the frame. -/
theorem flashReads : Obligations.FlashReads := by
  refine ⟨fun s n hn hphase => ⟨_, congrArg Host.Outcome.next (if_neg (Nat.not_lt.mpr hn)), ?_⟩,
    fun s n hn hphase => ⟨_, congrArg Host.Outcome.next (if_neg (Nat.not_lt.mpr hn)), ?_⟩⟩
  · have hread := runCdb_sendFlash (s := s) (len := 128) (n := 128) (128 * n.toNat) rfl hphase
    simpa only [Nat.reduceEqDiff, false_or] using hread
  · have hread := runCdb_sendFlash (s := s) (len := n.setWidth 64) 0 (BitVec.toNat_setWidth_of_le (by decide)) hphase
    have hnone : n.toNat = 0 ↔ n = 0 := ⟨fun h => BitVec.eq_of_toNat_eq h, fun h => by rw [h]; rfl⟩
    simpa only [Nat.zero_add, hnone] using hread

/-- Settles O39: each of the three commands asks in the frame for the length that its `Decode` gives. -/
theorem flashWritesAsk : Obligations.FlashWritesAsk := by
  rintro i s len (⟨n, rfl, hn, rfl⟩ | ⟨n, rfl, hfit, rfl⟩ | ⟨n, rfl, hfit, rfl⟩) hactual hphase
  · exact ⟨_, congrArg Host.Outcome.next (if_neg (Nat.not_lt.mpr hn)), runCdb_asks rfl hactual hphase⟩
  · exact ⟨_, rfl, runStream_asks (p := .part1) hfit hactual hphase⟩
  · exact ⟨_, rfl, runStream_asks (p := .part2) hfit hactual hphase⟩

/-- Settles O40: the block of reads fills `STAGING`, and what follows it is the sending of any response. -/
theorem registerRead : Obligations.RegisterRead := by
  intro s size addr hsize haddr hend hphase
  have hlen : (size.setWidth 64).toNat = size.toNat := BitVec.toNat_setWidth_of_le (by decide)
  refine ⟨_, exec_vendorE4 ⟨hsize, haddr, hend⟩ (by rwa [hlen]), ?_⟩
  obtain ⟨hanswered, hsent⟩ := regBlock_answered (s := s)
    (c := { s.ctx with cmdDir := .dirIn, cmdLen := size.setWidth 64 }) hend hlen
  refine ⟨hanswered, fun sp o hout => ?_, fun o hlo hhi hplain hrse => ?_⟩
  · have hread := regBlock_changes hend 0 (executingWith { s.ctx with cmdDir := .dirIn, cmdLen := size.setWidth 64 } s) sp o
    rw [hsent sp o fun h => hout (.inl (.inr h)), hread]
    · rfl
    · rintro (⟨hsp, -, ho⟩ | hreg)
      · exact hout (.inl (.inl ⟨hsp, by omega⟩))
      · exact hout (.inr hreg)
  · rw [hsent .reg o (fun h => nomatch h.2.1), byte_regBlock_reg hend hlo hhi ⟨hplain, hrse⟩]
    rfl

/-- Settles O41: the frame always runs the write, which resets the block or is followed by the end of the command. -/
theorem registerWrite : Obligations.RegisterWrite := by
  intro s value addr haddr
  refine ⟨_, exec_vendorE5 haddr, ?_⟩
  dsimp only
  by_cases hreset : target (addr.extractLsb' 0 16) = .role .cpuReset ∧ value = 0xA5
  · rw [if_pos hreset, if_pos ((writeResets_iff _ _).mpr hreset)]
  · have hkeeps : writeResets (addr.extractLsb' 0 16) value = false :=
      Bool.eq_false_iff.mpr (mt (writeResets_iff _ _).mp hreset)
    rw [if_neg hreset, if_neg (Bool.eq_false_iff.mp hkeeps)]
    exact regWrite_ended hkeeps s

/-- Settles O43: both commands are built in the frame of the passthrough. -/
theorem adminPassthrough : Obligations.AdminPassthrough := by
  refine fun s rest hready hup => ⟨fun hphase => ⟨_, rfl, ?_⟩, fun hphase => ⟨_, rfl, ?_⟩⟩
  · exact runAdmin_submits (opc := 0x02) ⟨hready, hup⟩ (by rwa [toNat_e6Len_logPage]) rfl
  · exact runAdmin_submits (opc := 0x06) ⟨hready, hup⟩ hphase rfl

/-- Settles O44: the frame always runs the body, which ends the command with its effect owed. -/
theorem resetCommands : Obligations.ResetCommands := fun s =>
  ⟨⟨_, congrArg Host.Outcome.next (runCdb_no_data s _), finishThen_ended .hardReset s⟩,
    ⟨_, congrArg Host.Outcome.next (runCdb_no_data s _), finishThen_ended .reenumerate s⟩,
    ⟨_, congrArg Host.Outcome.next (runCdb_no_data s _),
      finishThen_ended .commitReset { s with fw := { cursor1 := 0, cursor2 := 0, staged := false, flashValid := true } }⟩⟩

end Sys2Proof.Machine
end

section
/-! The valid mark of the flash (rules R48, R358, R359): every operation keeps it but a programmed firmware chunk, which
clears it, and the commit command, which sets it (O17). An operation that keeps the firmware state is an equation (`f_fw`); one
that also resets the cursors keeps the mark (`f_flashValid`). -/

namespace Sys2Proof.Machine

section
variable {s t u : State}

/-! ## Operations that keep the firmware state -/

@[simp] theorem fw_ite (c : Prop) [Decidable c] (s t : State) :
    (if c then s else t).fw = if c then s.fw else t.fw := apply_ite State.fw c s t

@[simp] theorem flashValid_ite (c : Prop) [Decidable c] (f g : Fw) :
    (if c then f else g).flashValid = if c then f.flashValid else g.flashValid := apply_ite Fw.flashValid c f g

@[simp] theorem armCbwIf_fw (c : Bool) (s : State) : (armCbwIf c s).fw = s.fw := by
  cases c <;> rfl
@[simp] theorem botReset_fw (s : State) : (botReset s).fw = s.fw := by
  simp [botReset]
@[simp] theorem failInFlight_fw (s : State) : (failInFlight s).fw = s.fw := by
  obtain ⟨-, h⟩ | ⟨-, h⟩ := failInFlight_cases s <;> simp [h]
@[simp] theorem raiseFault_fw (c : FaultCode) (s : State) : (raiseFault c s).fw = s.fw := by
  obtain ⟨-, h⟩ | ⟨-, h⟩ := raiseFault_cases c s <;> simp [h]
@[simp] theorem cancel_fw (s : State) : (cancel s).fw = s.fw := by
  simp [cancel, cancelCtx]
@[simp] theorem callSubmit_fw (p : Packet) (o : Owner) (s : State) : (callSubmit p o s).fw = s.fw := by
  cases p <;> rfl
@[simp] theorem powerOn_flashValid (s : State) : (powerOn s).fw.flashValid = s.fw.flashValid := rfl
@[simp] theorem recover_flashValid (s : State) : (recover s).fw.flashValid = s.fw.flashValid := rfl

/-! ## Chunks of a data phase -/

@[simp] theorem sendBuf_fw (s : State) : (sendBuf s).fw = s.fw := by
  simp [sendBuf]
@[simp] theorem readNextChunk_fw (s : State) : (readNextChunk s).fw = s.fw := by
  simp [readNextChunk]
@[simp] theorem writeNextChunk_fw (s : State) : (writeNextChunk s).fw = s.fw := by
  simp [writeNextChunk]
@[simp] theorem nextOutChunk_fw (s : State) : (nextOutChunk s).fw = s.fw := by
  simp [nextOutChunk]

/-- The mark is not set where it was not. -/
def MarkNotSet (s t : State) : Prop := t.fw.flashValid = true → s.fw.flashValid = true

theorem markNotSet_of_eq (h : t.fw.flashValid = s.fw.flashValid) : MarkNotSet s t := fun hset => h ▸ hset

theorem MarkNotSet.after (m : MarkNotSet u t) (h : u.fw.flashValid = s.fw.flashValid) : MarkNotSet s t :=
  fun hset => h ▸ m hset

theorem flashChunk_markNotSet {a n : Nat} {after : State → State} (h : flashChunk a n after s = .next t)
    (hafter : ∀ u, MarkNotSet u (after u)) : MarkNotSet s t := by
  unfold flashChunk at h
  split_ifs at h
  · cases h
    intro hset
    exact hafter (flashProgram a (s.bytes .staging 0 n) s) (by simpa using hset)
  · cases h
    exact markNotSet_of_eq (by simp)

/-- A firmware chunk clears the mark (rule R348); a config block (rule R345) and a WRITE(10) chunk leave it. -/
theorem chunkExec_markNotSet {n : Nat} (h : chunkExec n s = .next t) : MarkNotSet s t := by
  unfold chunkExec streamChunk at h
  split at h
  · cases h; exact markNotSet_of_eq (by simp [writeChunk])
  · exact flashChunk_markNotSet h fun _ => id
  · exact flashChunk_markNotSet h fun _ hset => nomatch hset
  · exact flashChunk_markNotSet h fun _ hset => nomatch hset
  · cases h; exact id

theorem resumeAt_markNotSet {r : Resume} (h : resumeAt r s = .next t) : MarkNotSet s t := by
  cases r with
  | tx n => cases h; exact markNotSet_of_eq (by simp)
  | rx n => exact (chunkExec_markNotSet h).after rfl

theorem waitStep_markNotSet {w : Wait} (h : waitStep w s = .next t) : MarkNotSet s t := by
  unfold waitStep at h
  simp only at h
  split_ifs at h
  · exact (resumeAt_markNotSet h).after rfl
  · cases h; exact markNotSet_of_eq (by simp)
  · cases h; exact id

/-! ## The other agents and the register bus -/

@[simp] theorem hwChange_fw (a : BitVec 16) (v : Byte) (s : State) : (hwChange a v s).fw = s.fw := by
  unfold hwChange
  split <;> rfl

@[simp] theorem dmaStep_fw (k : Nat) (s : State) : (dmaStep k s).fw = s.fw := by
  unfold dmaStep
  cases s.dma.dir <;> simp [dmaCheckDone]

@[simp] theorem offerBulkOut_fw (b : Bytes) (s : State) : (offerBulkOut b s).fw = s.fw := by
  unfold offerBulkOut
  cases s.usb.outArmed <;> simp

/-- Power-on resets the cursors and keeps the mark (rule R66); no other input reaches the firmware state. -/
@[simp] theorem agentStep_flashValid (i : Input) (s : State) : (agentStep i s).fw.flashValid = s.fw.flashValid := by
  cases i with
  | setup b => simp [agentStep, takeSetup]
  | ctlData | ctlStatus => simp [agentStep, whenConnected, raiseCtlData, raiseCtlStatus]
  | busReset | suspend | resume => simp [agentStep, whenConnected]
  | bulkOut b => simp [agentStep]
  | bulkIn n => simp [agentStep, takeBulkIn]
  | dma k => simp [agentStep]
  | regChange a v => simp [agentStep]
  | _ => rfl

@[simp] theorem regWrite_flashValid (a : BitVec 16) (v : Byte) (s : State) :
    (regWrite a v s).fw.flashValid = s.fw.flashValid := by
  unfold regWrite
  cases target a with
  | role r =>
    cases r with
    | usbEpStall => simp [roleWrite, setHaltIn, setHaltOut]
    | cpuReset | dmaStart => simp [roleWrite]
    | _ => rfl
  | ring | plain => rfl

@[simp] theorem regBlock_fw (n : Nat) (a : BitVec 16) (o : Nat) (s : State) : (regBlock n a o s).fw = s.fw := by
  rw [regBlock_eq]

/-! ## The NVMe engine -/

@[simp] theorem initStep_fw (st : InitStep) (cmd : Instr) (s : State) : (initStep st cmd s).fw = s.fw := by
  simp [initStep]
@[simp] theorem initNamespace_fw (s : State) : (initNamespace s).fw = s.fw := by
  simp [initNamespace]
@[simp] theorem initOk_fw (s : State) : (initOk s).fw = s.fw := by
  unfold initOk
  cases s.nvme.init <;> simp
@[simp] theorem deliverCtx_fw (st : BitVec 15) (s : State) : (deliverCtx st s).fw = s.fw := by
  simp [deliverCtx]

@[simp] theorem deliver_fw (i : Nat) (st : BitVec 15) (s : State) : (deliver i st s).fw = s.fw := by
  unfold deliver
  cases (s.nvme.slot i).owner <;> simp

@[simp] theorem settle_fw (i : Nat) (st : BitVec 15) (s : State) : (settle i st s).fw = s.fw := by
  unfold settle
  cases h : (s.nvme.slot i).owner <;> simp [h]

@[simp] theorem complete_fw (q : QueueId) (e : Bytes) (s : State) : (complete q e s).fw = s.fw := by
  unfold complete
  cases findSlot q (cqeCid e) s <;> simp

@[simp] theorem pollTurn_fw (q : QueueId) (fromTick : Bool) (s : State) : (pollTurn q fromTick s).fw = s.fw := by
  unfold pollTurn
  cases q <;> simp [pollOne]

@[simp] theorem slotTimeout_fw (i : Nat) (s : State) : (slotTimeout i s).fw = s.fw := by
  unfold slotTimeout
  cases (s.nvme.slot i).owner <;> simp

@[simp] theorem timeoutTurn_fw (i : Nat) (s : State) : (timeoutTurn i s).fw = s.fw := by
  simp [timeoutTurn]

@[simp] theorem noSlot_fw (o : Owner) (s : State) : (noSlot s o).fw = s.fw := by
  cases o <;> simp [noSlot]

@[simp] theorem submit_fw (p : Packet) (s : State) : (submit p s).fw = s.fw := by
  cases p with
  | sqe q e => obtain ⟨-, h⟩ | ⟨i, -, h⟩ := submit_cases q e s <;> simp [h]
  | cdb | setup => rfl

/-! ## The instructions -/

@[simp] theorem runCdb_flashValid {body : State → State} (hbody : ∀ u, (body u).fw.flashValid = u.fw.flashValid) (dir : Dir)
    (len : BitVec 64) (s : State) : (runCdb dir len body s).fw.flashValid = s.fw.flashValid := by
  obtain h | h := runCdb_cases dir len body s <;> rw [h]
  · simp
  · rw [hbody]

@[simp] theorem runMedium_flashValid {body : State → State} (hbody : ∀ u, (body u).fw.flashValid = u.fw.flashValid)
    (dir : Dir) (lba : BitVec 32) (blocks : BitVec 16) (s : State) :
    (runMedium dir lba blocks body s).fw.flashValid = s.fw.flashValid := by
  simp [runMedium, hbody]

@[simp] theorem sendFlash_fw (a n : Nat) (s : State) : (sendFlash a n s).fw = s.fw := by
  simp [sendFlash]
@[simp] theorem runStream_flashValid (p : FwPart) (length : BitVec 32) (s : State) :
    (runStream p length s).fw.flashValid = s.fw.flashValid := by
  simp [runStream]
@[simp] theorem runAdmin_flashValid (opc : Byte) (rest : BitVec 112) (cmd : Instr) (s : State) :
    (runAdmin opc rest cmd s).fw.flashValid = s.fw.flashValid := by
  simp [runAdmin]
@[simp] theorem finishThen_fw (a : AfterCsw) (s : State) : (finishThen a s).fw = s.fw := by
  simp [finishThen]
@[simp] theorem ctlReply_fw (reply : Bytes) (wLength : BitVec 16) (s : State) : (ctlReply reply wLength s).fw = s.fw := by
  simp [ctlReply]
@[simp] theorem setConfig_fw (c : BitVec 8) (s : State) : (setConfig c s).fw = s.fw := by
  simp [setConfig]

theorem clearHalt_fw {wIndex : BitVec 16} (h : clearHalt wIndex s = some t) : t.fw = s.fw := by
  unfold clearHalt at h
  split_ifs at h <;> cases h <;> simp

/-- No instruction but the commit command reaches the mark. -/
theorem exec_flashValid {i : Instr} (h : exec i s = .next t) (hi : i ≠ .vendorE8_51) :
    t.fw.flashValid = s.fw.flashValid := by
  cases i with
  | vendorE8_51 => exact absurd rfl hi
  | clearFeature wValue wIndex wLength =>
    cases h
    split
    · simp
    · split
      · rename_i hclear
        simp [clearHalt_fw hclear]
      · simp
  | getDescriptor type index wIndex wLength =>
    cases h
    split <;> simp
  | _ =>
    cases h
    simp

/-- The commit command in progress has ended PASSED, and owes its reset. -/
def Committed (t : State) : Prop :=
  decodeCdb t.ctx.cdb = .vendorE8_51 ∧ t.ctx.status = 0 ∧ t.ctx.afterCsw = .commitReset

/-- What a step does to the mark: it sets it by the commit command alone. -/
def MarkStep (s t : State) : Prop := MarkNotSet s t ∨ Committed t

theorem markStep_of_eq (h : t.fw.flashValid = s.fw.flashValid) : MarkStep s t := .inl (markNotSet_of_eq h)

theorem MarkStep.after (m : MarkStep u t) (h : u.fw.flashValid = s.fw.flashValid) : MarkStep s t :=
  m.imp_left fun hkept => hkept.after h

/-- Setup packets and submission entries do not carry the commit command. -/
theorem decode_ne_commit {p : Packet} {i : Instr} (h : decode p = .ok i) (hp : ∀ b, p ≠ .cdb b) : i ≠ .vendorE8_51 := by
  rintro rfl
  cases p with
  | cdb b => exact hp b rfl
  | setup b =>
    have hlen : b.length = 8 := by
      by_contra hne
      simp [decode, hne] at h
    have hcommit : decodeSetup b = .vendorE8_51 := by simpa [decode, hlen] using h
    have henc := encodeDecode.1 b hlen
    rw [hcommit] at henc
    cases henc
  | sqe q b => cases encodeDecode.2 q b _ h

theorem runPacket_flashValid {r : Refusal} {p : Packet} (h : runPacket r p s = .next t) (hp : ∀ b, p ≠ .cdb b) :
    t.fw.flashValid = s.fw.flashValid := by
  unfold runPacket at h
  split at h
  · exact exec_flashValid h (decode_ne_commit ‹_› hp)
  · cases h

/-- The commit command ends PASSED in the context that was latched for it (rule R358). -/
theorem markStep_runPacket_cdb {r : Refusal} (h : runPacket r (.cdb s.ctx.cdb) s = .next t) : MarkStep s t := by
  unfold runPacket at h
  split at h
  · rename_i i hdecode
    by_cases hi : i = .vendorE8_51
    · subst hi
      obtain ⟨-, -, u, hexec, -, hended, -⟩ := resetCommands s
      obtain rfl : u = t := Host.Outcome.next.inj (hexec.symm.trans h)
      have hcommit : decodeCdb s.ctx.cdb = .vendorE8_51 := by
        simp only [decode] at hdecode
        split at hdecode
        · cases hdecode
        · exact Except.ok.inj hdecode
      rw [hended]
      exact .inr ⟨hcommit, rfl, rfl⟩
    · exact markStep_of_eq (exec_flashValid h hi)
  · cases h

/-! ## The event handlers -/

@[simp] theorem busReset_fw (s : State) : (busReset s).fw = s.fw := by
  unfold busReset
  cases h : s.link.state <;> simp [h]

theorem ctlSetupPhase_flashValid (h : ctlSetupPhase s = .next t) : t.fw.flashValid = s.fw.flashValid := by
  unfold ctlSetupPhase at h
  split at h
  · exact runPacket_flashValid h nofun
  · cases h; rfl
  · cases h; simp

@[simp] theorem ctlDataPhase_fw (s : State) : (ctlDataPhase s).fw = s.fw := by
  unfold ctlDataPhase
  cases expectUsb s.link.state <;> simp

@[simp] theorem adoptAddress_fw (s : State) : (adoptAddress s).fw = s.fw := by
  unfold adoptAddress
  cases s.ctl.pendingAddress <;> rfl

@[simp] theorem ctlStatusPhase_fw (s : State) : (ctlStatusPhase s).fw = s.fw := by
  unfold ctlStatusPhase
  cases expectUsb s.link.state <;> simp [ctlFinish]

theorem markStep_receiveCbw (h : receiveCbw s = .next t) : MarkStep s t := by
  unfold receiveCbw at h
  simp only at h
  split at h
  · exact (markStep_runPacket_cdb h).after (by simp)
  · cases h; exact markStep_of_eq (by simp)

theorem markStep_bulkOutHandler (h : bulkOutHandler s = .next t) : MarkStep s t := by
  unfold bulkOutHandler at h
  split at h
  · split_ifs at h
    · exact markStep_receiveCbw h
    · cases h; exact markStep_of_eq rfl
    · cases h; exact markStep_of_eq (by simp)
  · cases h; exact markStep_of_eq rfl
  · cases h; exact markStep_of_eq (by simp)

@[simp] theorem cswAck_flashValid (s : State) : (cswAck s).fw.flashValid = s.fw.flashValid := by
  unfold cswAck
  cases h : s.ctx.afterCsw <;> simp

@[simp] theorem bulkInHandler_flashValid (s : State) : (bulkInHandler s).fw.flashValid = s.fw.flashValid := by
  unfold bulkInHandler
  cases expectUsb s.link.state <;> simp [dataAck]

theorem markStep_epHandler {i : Nat} (h : epHandler i s = .next t) : MarkStep s t := by
  unfold epHandler at h
  split_ifs at h
  · cases h; exact markStep_of_eq (bulkInHandler_flashValid s)
  · exact markStep_bulkOutHandler h
  · cases h; exact markStep_of_eq (by simp)

@[simp] theorem linkChange_fw (s : State) : (linkChange s).fw = s.fw := by
  simp [linkChange]
@[simp] theorem hwError_fw (s : State) : (hwError s).fw = s.fw := by
  unfold hwError
  cases h : s.link.state <;> simp [h]
@[simp] theorem cqeEvent_fw (s : State) : (cqeEvent s).fw = s.fw := by
  unfold cqeEvent
  cases h : expectCqe s.link.state <;> simp [h]
@[simp] theorem usbSuspend_fw (s : State) : (usbSuspend s).fw = s.fw := by
  simp [usbSuspend, enterSuspend]
@[simp] theorem usbResume_fw (s : State) : (usbResume s).fw = s.fw := by
  simp [usbResume]

@[simp] theorem tickTunnelCfg_fw (s : State) : (tickTunnelCfg s).fw = s.fw := by
  unfold tickTunnelCfg
  cases s.nvme.init <;> simp [initStart]

@[simp] theorem phyReady_fw (s : State) : (phyReady s).fw = s.fw := by
  rw [phyReady_eq]

/-- The return from a fault resets the cursors and keeps the mark (rule R214). -/
@[simp] theorem linkTick_flashValid (s : State) : (linkTick s).fw.flashValid = s.fw.flashValid := by
  unfold linkTick
  cases s.link.state <;> simp [leaveOff, tickPhyInit, phyTimeout, tickLinkTrain, tickResume, tickFault]

/-! ## The loop iteration and the step -/

theorem markStep_posStep (h : posStep s = .next t) : MarkStep s t := by
  cases hpos : s.seq.pos with
  | ctlSetup =>
    simp only [posStep, hpos] at h
    split at h
    · exact (markStep_of_eq (ctlSetupPhase_flashValid h)).after rfl
    · cases h; exact markStep_of_eq rfl
  | epServe m =>
    simp only [posStep, hpos] at h
    split at h
    · cases h; exact markStep_of_eq rfl
    · exact (markStep_epHandler h).after rfl
  | _ =>
    simp only [posStep, hpos] at h
    cases h
    exact markStep_of_eq (by simp [unlessFlag])

theorem markStep_seqStep (h : seqStep s = .next t) : MarkStep s t := by
  obtain ⟨w, -, hw⟩ | ⟨-, r, i, -, hdecode, hi⟩ | ⟨-, -, hp⟩ := seqStep_cases h
  · exact .inl (waitStep_markNotSet hw)
  · exact markStep_of_eq (exec_flashValid hi (decode_ne_commit hdecode nofun))
  · exact markStep_posStep hp

theorem markStep_step (h : step s = .next t) : MarkStep s t := by
  obtain ⟨u, hu, hseq⟩ | ⟨i, r, -, rfl⟩ | ⟨-, rfl⟩ := step_cases h
  · obtain rfl | ⟨r, -, rfl⟩ := hu
    · exact markStep_seqStep hseq
    · exact (markStep_seqStep hseq).after rfl
  · exact markStep_of_eq (agentStep_flashValid i _)
  · exact markStep_of_eq (by simp)

end

/-- Settles O17: a step that set the mark ran the commit command. -/
theorem firmwareValidOnlyByCommit : Obligations.FirmwareValidOnlyByCommit := by
  intro s t hstep hunset hset
  obtain hkept | hcommitted := markStep_step hstep
  · exact absurd (hkept hset) (Bool.eq_false_iff.mp hunset)
  · exact hcommitted

end Sys2Proof.Machine
end

section
/-! What a step does to the command ids of the NVMe engine, to the heads of its completion queues and to `CTRLBUF` (rules R376,
R377, R385, R488). An operation leaves the three alone (`f_undisturbed`), or the engine makes moves, each a small change of
its view (`engineWork_f`), or the block may be reset (`workOrReset_f`); besides, a CBW may be taken. The distinct ids (O9), the
heads (O10) and the one writer of `CTRLBUF` (O15) follow. -/

namespace Sys2Proof.Machine

/-! ## What is watched -/

/-- The id a slot in use holds (rules R376, R377). -/
def Slot.heldId (x : Slot) : Option (BitVec 16) := if x.inUse then some x.cid else none

/-- The consumer's side of a completion queue (rules R381, R385). -/
structure CqHead where
  head : Fin Config.queueDepth
  phase : Bool
  consumed : Nat

/-- The consumer's side in the queue pair. -/
def QueuePair.head (p : QueuePair) : CqHead := { head := p.cqHead, phase := p.cqPhase, consumed := p.consumed }

/-- One entry is consumed (rule R381). -/
def CqHead.consume (h : CqHead) : CqHead :=
  { head := nextIndex h.head
    phase := if (nextIndex h.head).val = 0 then !h.phase else h.phase
    consumed := h.consumed + 1 }

/-- The part of the engine that the invariants speak of: the id of each slot of the pool, the head of each queue. -/
structure EngineView where
  ids : List (Option (BitVec 16))
  heads : QueueId → CqHead

def Nvme.view (n : Nvme) : EngineView := { ids := n.slots.map Slot.heldId, heads := fun q => (n.queue q).head }

/-- What `CTRLBUF` reads as. -/
def Memory.ctrlbuf (m : Memory) : Nat → Option Byte := fun o => m.get (key .ctrlbuf o)

/-- From `s` to `t` the ids, the heads, `CTRLBUF` and its length are kept, and no power-on happens. Its four equations are a
simp rule for each operation that disturbs none of them. -/
abbrev Undisturbed (s t : State) : Prop :=
  t.nvme.view = s.nvme.view ∧ t.ctrlLen = s.ctrlLen ∧ t.epoch = s.epoch ∧ t.mem.ctrlbuf = s.mem.ctrlbuf

/-! ## Rules of the records -/

/-- An orphan keeps its id (rules R212, R285). -/
@[simp] theorem view_orphans (n : Nvme) : { n with slots := n.slots.map orphanSlot }.view = n.view := by
  have hheld : Slot.heldId ∘ orphanSlot = Slot.heldId := by
    funext x
    simp only [Function.comp, orphanSlot]
    split <;> rfl
  unfold Nvme.view
  rw [List.map_map, hheld]
  rfl

/-- What the bring-up writes (rules R44, R395) is neither an id nor a head. -/
@[simp] theorem view_bringUp (n : Nvme) (st : InitStep) (created identified : Bool) (size : BitVec 64) (block : BitVec 32) :
    { n with init := st, ioCreated := created, identified := identified, nsSize := size, blockSize := block }.view =
      n.view := rfl

@[simp] theorem ctrlbuf_writeBytes (m : Memory) {sp : Space} (h : sp ≠ .ctrlbuf) (o : Nat) (b : Bytes) :
    (m.writeBytes sp o b).ctrlbuf = m.ctrlbuf := by
  funext p
  exact (Memory.get_writeBytes m sp .ctrlbuf o p b).trans (if_neg fun hat => h hat.1)

@[simp] theorem ctrlbuf_write (m : Memory) {sp : Space} (h : sp ≠ .ctrlbuf) (o : Nat) (b : Byte) :
    (m.write sp o b).ctrlbuf = m.ctrlbuf := ctrlbuf_writeBytes m h o [b]

@[simp] theorem ctrlbuf_fill (m : Memory) {sp : Space} (h : sp ≠ .ctrlbuf) (o : Nat) (f : Nat → Byte) (n : Nat) :
    (m.fill sp o f n).ctrlbuf = m.ctrlbuf := by
  funext p
  exact (Memory.get_fill m sp .ctrlbuf o p n f).trans (if_neg fun hat => h hat.1)

@[simp] theorem ctrlbuf_clearQueues (m : Memory) : m.clearQueues.ctrlbuf = m.ctrlbuf := by
  funext p
  simp [Memory.ctrlbuf, Memory.clearQueues, Memory.get_restrict, key_mod, Space.code]

@[simp] theorem view_ite (c : Prop) [Decidable c] (m n : Nvme) :
    (if c then m else n).view = if c then m.view else n.view := apply_ite Nvme.view c m n
@[simp] theorem ctrlbuf_ite (c : Prop) [Decidable c] (m n : Memory) :
    (if c then m else n).ctrlbuf = if c then m.ctrlbuf else n.ctrlbuf := apply_ite Memory.ctrlbuf c m n
@[simp] theorem ctrlLen_ite (c : Prop) [Decidable c] (s t : State) :
    (if c then s else t).ctrlLen = if c then s.ctrlLen else t.ctrlLen := apply_ite State.ctrlLen c s t
@[simp] theorem epoch_ite (c : Prop) [Decidable c] (s t : State) :
    (if c then s else t).epoch = if c then s.epoch else t.epoch := apply_ite State.epoch c s t

/-! ## Ends of a command, faults and chunks -/

@[simp] theorem finish_undisturbed (st : BitVec 8) (s : State) : Undisturbed s (finish st s) := by
  simp [Undisturbed]
@[simp] theorem checkCondition_undisturbed (x : Sense) (s : State) : Undisturbed s (checkCondition x s) := by
  simp [Undisturbed, checkCondition]
@[simp] theorem vendorError_undisturbed (s : State) : Undisturbed s (vendorError s) := by
  simp [Undisturbed, vendorError]
@[simp] theorem phaseError_undisturbed (s : State) : Undisturbed s (phaseError s) := by
  simp [Undisturbed, phaseError]
@[simp] theorem dropContext_undisturbed (s : State) : Undisturbed s (dropContext s) := by
  simp [Undisturbed, dropContext]
@[simp] theorem clearUsb_undisturbed (s : State) : Undisturbed s (clearUsb s) := by
  simp [Undisturbed, clearUsb]
@[simp] theorem armCbwIf_undisturbed (c : Bool) (s : State) : Undisturbed s (armCbwIf c s) := by
  cases c <;> exact ⟨rfl, rfl, rfl, rfl⟩
@[simp] theorem botReset_undisturbed (s : State) : Undisturbed s (botReset s) := by
  simp [Undisturbed, botReset]
@[simp] theorem failInFlight_undisturbed (s : State) : Undisturbed s (failInFlight s) := by
  obtain ⟨-, h⟩ | ⟨-, h⟩ := failInFlight_cases s <;> simp [Undisturbed, h]
@[simp] theorem raiseFault_undisturbed (c : FaultCode) (s : State) : Undisturbed s (raiseFault c s) := by
  obtain ⟨-, h⟩ | ⟨-, h⟩ := raiseFault_cases c s <;> simp [Undisturbed, h]
@[simp] theorem cancel_undisturbed (s : State) : Undisturbed s (cancel s) := by
  simp [Undisturbed, cancel, cancelCtx]
@[simp] theorem callSubmit_undisturbed (p : Packet) (o : Owner) (s : State) : Undisturbed s (callSubmit p o s) := by
  cases p <;> exact ⟨rfl, rfl, rfl, rfl⟩
@[simp] theorem sendBuf_undisturbed (s : State) : Undisturbed s (sendBuf s) := by
  simp [Undisturbed, sendBuf]
@[simp] theorem readNextChunk_undisturbed (s : State) : Undisturbed s (readNextChunk s) := by
  simp [Undisturbed, readNextChunk]
@[simp] theorem writeNextChunk_undisturbed (s : State) : Undisturbed s (writeNextChunk s) := by
  simp [Undisturbed, writeNextChunk]
@[simp] theorem nextOutChunk_undisturbed (s : State) : Undisturbed s (nextOutChunk s) := by
  simp [Undisturbed, nextOutChunk]

/-! ## The end of a wait -/

theorem flashChunk_undisturbed {a n : Nat} {after : State → State} {s t : State} (h : flashChunk a n after s = .next t)
    (hafter : ∀ u, Undisturbed u (after u)) : Undisturbed s t := by
  have hprogram : ∀ data, Undisturbed s (flashProgram a data s) := fun data => by
    simp [Undisturbed, flashProgram, programPages_eq]
  unfold flashChunk at h
  split at h
  · cases h
  · split at h <;> cases h
    · simp [Undisturbed, hafter, hprogram]
    · simp [Undisturbed, flashGarbage]

theorem chunkExec_undisturbed {n : Nat} {s t : State} (h : chunkExec n s = .next t) : Undisturbed s t := by
  unfold chunkExec streamChunk at h
  split at h
  · cases h; simp [Undisturbed, writeChunk]
  · exact flashChunk_undisturbed h fun _ => ⟨rfl, rfl, rfl, rfl⟩
  · exact flashChunk_undisturbed h fun _ => ⟨rfl, rfl, rfl, rfl⟩
  · exact flashChunk_undisturbed h fun _ => ⟨rfl, rfl, rfl, rfl⟩
  · cases h; exact ⟨rfl, rfl, rfl, rfl⟩

theorem resumeAt_undisturbed {r : Resume} {s t : State} (h : resumeAt r s = .next t) : Undisturbed s t := by
  cases r with
  | tx n => cases h; simp [Undisturbed]
  | rx n => exact (chunkExec_undisturbed h :)

theorem waitStep_undisturbed {w : Wait} {s t : State} (h : waitStep w s = .next t) : Undisturbed s t := by
  unfold waitStep at h
  simp only at h
  split_ifs at h
  · exact (resumeAt_undisturbed h :)
  · cases h; simp [Undisturbed]
  · cases h; exact ⟨rfl, rfl, rfl, rfl⟩

/-! ## The other agents and the register bus -/

theorem hwChange_undisturbed (a : BitVec 16) (v : Byte) (s : State) : Undisturbed s (hwChange a v s) := by
  unfold hwChange
  split <;> simp [Undisturbed, hwStore]

theorem rmwOne_undisturbed (s : State) (x : BitVec 16 × Byte × Byte) : Undisturbed s (rmwOne s x) := by
  unfold rmwOne
  split
  · obtain h | ⟨v, h⟩ := hwBetween_cases (hwStore x.1) s <;> simp [Undisturbed, hwStore, h]
  · exact ⟨rfl, rfl, rfl, rfl⟩

@[simp] theorem rmwList_undisturbed (l : List (BitVec 16 × Byte × Byte)) (s : State) : Undisturbed s (rmwList l s) := by
  unfold rmwList
  induction l generalizing s with
  | nil => exact ⟨rfl, rfl, rfl, rfl⟩
  | cons x l ih => simpa [Undisturbed, rmwOne_undisturbed s x] using ih (rmwOne s x)

@[simp] theorem dmaStep_undisturbed (k : Nat) (s : State) : Undisturbed s (dmaStep k s) := by
  unfold dmaStep
  cases s.dma.dir <;> simp [Undisturbed, dmaCheckDone]

/-- The PCIe windows are those of the staging buffer and the queues (rule R423). -/
theorem translate_space {addr : BitVec 64} {sp : Space} {o : Nat} (h : translate addr = some (sp, o)) :
    sp = .staging ∨ ∃ q, sp = .sq q ∨ sp = .cq q := by
  unfold translate at h
  repeat' split at h
  all_goals cases h
  all_goals simp

theorem pcieWrite_ctrlbuf (addr : BitVec 64) (b : Bytes) (m : Memory) : (pcieWrite addr b m).ctrlbuf = m.ctrlbuf := by
  induction b generalizing addr m with
  | nil => rfl
  | cons x b ih =>
    rw [pcieWrite, ih]
    split
    · rename_i htr
      obtain rfl | ⟨q, rfl | rfl⟩ := translate_space htr <;> exact ctrlbuf_write m (by nofun) _ x
    · rfl

theorem regReadMem_ctrlbuf (a : BitVec 16) (s : State) : (regReadMem a s).ctrlbuf = s.mem.ctrlbuf := by
  unfold regReadMem
  cases target a with
  | role | ring => rfl
  | plain => cases Config.policy a <;> simp

@[simp] theorem regBlock_undisturbed (n : Nat) (a : BitVec 16) (o : Nat) (s : State) : Undisturbed s (regBlock n a o s) := by
  induction n generalizing a o s with
  | zero => exact ⟨rfl, rfl, rfl, rfl⟩
  | succ n ih =>
    have hread : Undisturbed s (regToStaging a o s) := by simp [Undisturbed, regToStaging, regReadMem_ctrlbuf]
    simpa [Undisturbed, hread, regBlock] using ih (a + 1) (o + 1) (regToStaging a o s)

/-- A doorbell register is no head (rule R26). -/
theorem view_setQueue (n : Nvme) (q : QueueId) {p : QueuePair} (h : p.head = (n.queue q).head) :
    (n.setQueue q p).view = n.view := by
  unfold Nvme.view
  rw [setQueue_slots]
  congr 1
  funext r
  by_cases hr : r = q
  · rw [hr, queue_setQueue, h]
  · rw [queue_setQueue_of_ne n p hr]

theorem plainWriteMem_ctrlbuf (a : BitVec 16) (v : Byte) (s : State) : (plainWriteMem a v s).ctrlbuf = s.mem.ctrlbuf := by
  unfold plainWriteMem
  cases Config.policy a <;> simp

/-- A bus write that does not reset the block (rule R471) reaches neither ids, heads nor `CTRLBUF`. -/
theorem regWrite_undisturbed {a : BitVec 16} {v : Byte} (h : writeResets a v = false) (s : State) :
    Undisturbed s (regWrite a v s) := by
  unfold regWrite
  cases ht : target a with
  | role r =>
    cases r with
    | cpuReset =>
      have hv : v ≠ Config.resetMagic := by simpa [writeResets, ht] using h
      simp [Undisturbed, roleWrite, hv]
    | usbEpStall => simp [Undisturbed, roleWrite, setHaltIn, setHaltOut]
    | dmaStart => simp [Undisturbed, roleWrite]
    | sqTailDb q | cqHeadDb q => exact ⟨view_setQueue _ q rfl, rfl, rfl, rfl⟩
    | _ => exact ⟨rfl, rfl, rfl, rfl⟩
  | ring => exact ⟨rfl, rfl, rfl, rfl⟩
  | plain => exact ⟨rfl, rfl, rfl, plainWriteMem_ctrlbuf a v s⟩

/-! ## The bring-up -/

@[simp] theorem initFail_undisturbed (s : State) : Undisturbed s (initFail s) := ⟨rfl, rfl, rfl, rfl⟩
@[simp] theorem initStep_undisturbed (st : InitStep) (cmd : Instr) (s : State) : Undisturbed s (initStep st cmd s) := by
  simp [Undisturbed, initStep]
@[simp] theorem initNamespace_undisturbed (s : State) : Undisturbed s (initNamespace s) := by
  simp [Undisturbed, initNamespace]
@[simp] theorem initOk_undisturbed (s : State) : Undisturbed s (initOk s) := by
  unfold initOk
  cases s.nvme.init <;> simp [Undisturbed]

/-! ## The instructions -/

@[simp] theorem deliverCtx_undisturbed (st : BitVec 15) (s : State) : Undisturbed s (deliverCtx st s) := by
  simp [Undisturbed, deliverCtx]
@[simp] theorem runCdb_undisturbed {body : State → State} (hbody : ∀ u, Undisturbed u (body u)) (dir : Dir)
    (len : BitVec 64) (s : State) : Undisturbed s (runCdb dir len body s) := by
  obtain h | h := runCdb_cases dir len body s <;> rw [h]
  · simp [Undisturbed]
  · exact (hbody _ :)
@[simp] theorem runMedium_undisturbed {body : State → State} (hbody : ∀ u, Undisturbed u (body u)) (dir : Dir)
    (lba : BitVec 32) (blocks : BitVec 16) (s : State) : Undisturbed s (runMedium dir lba blocks body s) := by
  simp [Undisturbed, runMedium, runCdb_undisturbed hbody]
@[simp] theorem sendFlash_undisturbed (a n : Nat) (s : State) : Undisturbed s (sendFlash a n s) := by
  simp [Undisturbed, sendFlash]
@[simp] theorem runStream_undisturbed (p : FwPart) (length : BitVec 32) (s : State) : Undisturbed s (runStream p length s) := by
  simp [Undisturbed, runStream, runCdb_undisturbed]
@[simp] theorem runAdmin_undisturbed (opc : Byte) (rest : BitVec 112) (cmd : Instr) (s : State) :
    Undisturbed s (runAdmin opc rest cmd s) := by
  simp [Undisturbed, runAdmin, runCdb_undisturbed]
@[simp] theorem finishThen_undisturbed (a : AfterCsw) (s : State) : Undisturbed s (finishThen a s) := by
  simp [Undisturbed, finishThen]
@[simp] theorem ctlReply_undisturbed (reply : Bytes) (wLength : BitVec 16) (s : State) :
    Undisturbed s (ctlReply reply wLength s) := by
  simp [Undisturbed, ctlReply]
@[simp] theorem setConfig_undisturbed (c : BitVec 8) (s : State) : Undisturbed s (setConfig c s) := by
  simp [Undisturbed, setConfig]
theorem clearHalt_undisturbed {wIndex : BitVec 16} {s t : State} (h : clearHalt wIndex s = some t) : Undisturbed s t := by
  unfold clearHalt at h
  split_ifs at h <;> cases h <;> simp [Undisturbed]

/-! ## The event handlers -/

@[simp] theorem busReset_undisturbed (s : State) : Undisturbed s (busReset s) := by
  unfold busReset
  simp only
  cases s.link.state <;> simp [Undisturbed]
@[simp] theorem ctlDataPhase_undisturbed (s : State) : Undisturbed s (ctlDataPhase s) := by
  unfold ctlDataPhase
  cases expectUsb s.link.state <;> simp [Undisturbed]
@[simp] theorem adoptAddress_undisturbed (s : State) : Undisturbed s (adoptAddress s) := by
  unfold adoptAddress
  cases s.ctl.pendingAddress <;> exact ⟨rfl, rfl, rfl, rfl⟩
@[simp] theorem ctlStatusPhase_undisturbed (s : State) : Undisturbed s (ctlStatusPhase s) := by
  unfold ctlStatusPhase
  cases expectUsb s.link.state <;> simp [Undisturbed, ctlFinish]
@[simp] theorem dataAck_undisturbed (s : State) : Undisturbed s (dataAck s) := by
  simp [Undisturbed, dataAck]
@[simp] theorem linkChange_undisturbed (s : State) : Undisturbed s (linkChange s) := by
  simp [Undisturbed, linkChange]
@[simp] theorem hwError_undisturbed (s : State) : Undisturbed s (hwError s) := by
  unfold hwError
  simp only
  cases s.link.state <;> simp [Undisturbed]
@[simp] theorem cqeEvent_undisturbed (s : State) : Undisturbed s (cqeEvent s) := by
  unfold cqeEvent
  simp only
  cases expectCqe s.link.state <;> simp [Undisturbed]
@[simp] theorem usbSuspend_undisturbed (s : State) : Undisturbed s (usbSuspend s) := by
  simp [Undisturbed, usbSuspend, enterSuspend]
@[simp] theorem usbResume_undisturbed (s : State) : Undisturbed s (usbResume s) := by
  simp [Undisturbed, usbResume]
@[simp] theorem tickTunnelCfg_undisturbed (s : State) : Undisturbed s (tickTunnelCfg s) := by
  unfold tickTunnelCfg
  cases s.nvme.init <;> simp [Undisturbed, initStart]

/-! ## The moves of the engine -/

/-- What may happen to the ids and the heads: the engine's reset, a slot freed, a slot issued with an id that no other slot of
the full pool holds, an entry consumed (rules R64, R373, R377, R381, R383). -/
inductive EngineMove (a : EngineView) : EngineView → Prop
  | reset : EngineMove a Nvme.reset.view
  | freed (i : Nat) : EngineMove a { a with ids := a.ids.set i none }
  | issued (i : Nat) (c : BitVec 16)
      (hfresh : a.ids.length = Config.kMax → ∀ j, j ≠ i → a.ids[j]? ≠ some (some c)) :
      EngineMove a { a with ids := a.ids.set i (some c) }
  | consumed (q : QueueId) : EngineMove a { a with heads := Function.update a.heads q (a.heads q).consume }

/-- From `s` to `t` the engine makes moves, and `CTRLBUF` is left alone. -/
def EngineWork (s t : State) : Prop :=
  Relation.ReflTransGen EngineMove s.nvme.view t.nvme.view ∧
    t.ctrlLen = s.ctrlLen ∧ t.epoch = s.epoch ∧ t.mem.ctrlbuf = s.mem.ctrlbuf

section
variable {s t u : State}

theorem engineWork_of_undisturbed (h : Undisturbed s t) : EngineWork s t := by
  obtain ⟨hview, hctrl⟩ := h
  exact ⟨hview ▸ .refl, hctrl⟩

theorem EngineWork.trans (h : EngineWork s u) (h' : EngineWork u t) : EngineWork s t := by
  obtain ⟨hmoves, hlen, hepoch, hbuf⟩ := h
  obtain ⟨hmoves', hlen', hepoch', hbuf'⟩ := h'
  exact ⟨hmoves.trans hmoves', hlen'.trans hlen, hepoch'.trans hepoch, hbuf'.trans hbuf⟩

theorem EngineWork.after (w : EngineWork u t) (h : Undisturbed s u) : EngineWork s t :=
  (engineWork_of_undisturbed h).trans w

theorem EngineWork.before (w : EngineWork s u) (h : Undisturbed u t) : EngineWork s t :=
  w.trans (engineWork_of_undisturbed h)

theorem engineWork_recover (s : State) : EngineWork s (recover s) :=
  ⟨.single .reset, rfl, rfl, ctrlbuf_clearQueues s.mem⟩

theorem view_setSlot (i : Nat) (x : Slot) (s : State) :
    (setSlot i x s).nvme.view = { s.nvme.view with ids := s.nvme.view.ids.set i x.heldId } := by
  simp only [Nvme.view, setSlot_nvme, List.map_set]
  rfl

theorem view_ids_getElem? (n : Nvme) (i : Nat) : n.view.ids[i]? = n.slots[i]?.map Slot.heldId := by
  rw [Nvme.view, List.getElem?_map]

/-- A slot rewritten with the id it held. -/
theorem setSlot_undisturbed (i : Nat) {x : Slot} (s : State) (hx : x.heldId = (s.nvme.slot i).heldId) :
    Undisturbed s (setSlot i x s) := by
  refine ⟨?_, rfl, rfl, rfl⟩
  rw [view_setSlot]
  by_cases hi : i < s.nvme.slots.length
  · have hi' : i < s.nvme.view.ids.length := by simpa [Nvme.view] using hi
    have hid : s.nvme.view.ids[i] = x.heldId := by simp [Nvme.view, hx, slot_eq_getElem hi]
    rw [← hid, List.set_getElem_self]
  · rw [List.set_eq_of_length_le (by simpa [Nvme.view] using hi)]

theorem engineWork_release (i : Nat) (s : State) : EngineWork s (release i s) := by
  refine ⟨?_, rfl, rfl, rfl⟩
  rw [release, view_setSlot]
  exact .single (.freed i)

/-- A slot given an entry and issued holds an id that no other slot holds (rules R373, R377). -/
theorem engineWork_issue {i : Nat} (hi : i < s.nvme.slots.length) {x : Slot} (huse : x.inUse = true) :
    EngineWork s (issue i (setSlot i x s)) := by
  rw [issue_setSlot hi]
  refine ⟨?_, rfl, rfl, ctrlbuf_writeBytes s.mem (sp := .sq x.q) nofun _ _⟩
  have hview : (issuedNvme i x s).view = { s.nvme.view with ids := s.nvme.view.ids.set i (some (issuedCid i s)) } := by
    have hheads : ∀ q, ((issuedNvme i x s).queue q).head = (s.nvme.queue q).head := by
      intro q
      by_cases hq : q = x.q
      · rw [hq, issuedNvme_queue]; rfl
      · rw [issuedNvme_queue_of_ne hq]
    simp only [Nvme.view, hheads]
    simp [issuedNvme, List.map_set, Slot.heldId, huse]
  rw [hview]
  refine .single (.issued i _ fun hlen j hj hheld => ?_)
  have hlen' : s.nvme.slots.length = Config.kMax := by simpa [Nvme.view] using hlen
  obtain ⟨-, -, hfresh, -⟩ := issuedCid_first hlen' i
  rw [view_ids_getElem?, Option.map_eq_some_iff] at hheld
  obtain ⟨y, hy, hid⟩ := hheld
  obtain ⟨hjlt, rfl⟩ := List.getElem?_eq_some_iff.mp hy
  rw [← slot_eq_getElem hjlt] at hid
  unfold Slot.heldId at hid
  split at hid
  case isTrue hju => exact hfresh j (hlen' ▸ hjlt) hj hju (Option.some.inj hid)
  case isFalse => cases hid

theorem engineWork_headConsumed (q : QueueId) (s : State) : EngineWork s (headConsumed q s) := by
  refine ⟨.single ?_, rfl, rfl, rfl⟩
  have hview : (headConsumed q s).nvme.view =
      { s.nvme.view with heads := Function.update s.nvme.view.heads q (s.nvme.view.heads q).consume } := by
    simp only [Nvme.view, headConsumed, setQueue_slots]
    congr 1
    funext r
    by_cases hr : r = q
    · subst hr
      rw [queue_setQueue, Function.update_self]
      rfl
    · rw [queue_setQueue_of_ne _ _ hr, Function.update_of_ne hr]
  rw [hview]
  exact .consumed q

/-! ## Completions, time-outs and submissions -/

theorem engineWork_deliver (i : Nat) (st : BitVec 15) (s : State) : EngineWork s (deliver i st s) := by
  unfold deliver
  refine (engineWork_release i s).before ?_
  cases (s.nvme.slot i).owner <;> simp [Undisturbed]

theorem engineWork_settle {i : Nat} (hi : i < s.nvme.slots.length) (huse : (s.nvme.slot i).inUse = true) (st : BitVec 15) :
    EngineWork s (settle i st s) := by
  unfold settle
  simp only
  split
  · exact engineWork_deliver i st s
  · split
    · exact engineWork_issue hi huse
    · split
      · exact (engineWork_release i s).before (raiseFault_undisturbed _ _)
      · exact engineWork_deliver i st s
      · exact engineWork_deliver i st s

/-- A completion goes to a slot in use (rule R382). -/
theorem engineWork_complete (q : QueueId) (e : Bytes) (s : State) : EngineWork s (complete q e s) := by
  unfold complete
  split
  case h_1 => exact engineWork_of_undisturbed (raiseFault_undisturbed _ s)
  case h_2 i hfound =>
    obtain ⟨hi, hmatch, -⟩ := List.findIdx?_eq_some_iff_getElem.mp hfound
    have huse : (s.nvme.slot i).inUse = true := by
      rw [slot_eq_getElem hi]
      simp only [Bool.and_eq_true] at hmatch
      exact hmatch.1.1
    refine (engineWork_settle (by simpa using hi) ?_ _).after (setSlot_undisturbed i s rfl)
    rw [setSlot_slot hi]
    exact huse

theorem engineWork_pollTurn (q : QueueId) (fromTick : Bool) (s : State) : EngineWork s (pollTurn q fromTick s) := by
  unfold pollTurn
  split
  · exact (engineWork_headConsumed q s).trans (engineWork_complete q _ _)
  · cases q <;> exact engineWork_of_undisturbed ⟨rfl, rfl, rfl, rfl⟩

theorem engineWork_slotTimeout (i : Nat) (s : State) : EngineWork s (slotTimeout i s) := by
  unfold slotTimeout
  refine (engineWork_release i s).before ?_
  cases (s.nvme.slot i).owner <;> simp [Undisturbed]

theorem engineWork_timeoutTurn (i : Nat) (s : State) : EngineWork s (timeoutTurn i s) := by
  unfold timeoutTurn
  simp only
  split_ifs
  · exact engineWork_of_undisturbed ⟨rfl, rfl, rfl, rfl⟩
  · exact (engineWork_slotTimeout i _).after ⟨rfl, rfl, rfl, rfl⟩
  · exact engineWork_of_undisturbed ⟨rfl, rfl, rfl, rfl⟩

theorem noSlot_undisturbed (o : Owner) (s : State) : Undisturbed s (noSlot s o) := by
  cases o with
  | ctx => exact checkCondition_undisturbed _ s
  | init => exact initFail_undisturbed s
  | none => exact ⟨rfl, rfl, rfl, rfl⟩

theorem lt_of_freeSlot {i : Nat} (h : freeSlot s = some i) : i < s.nvme.slots.length :=
  (List.findIdx?_eq_some_iff_getElem.mp h).1

theorem engineWork_submit (p : Packet) (s : State) : EngineWork s (submit p s) := by
  cases p with
  | sqe q e =>
    obtain ⟨-, h⟩ | ⟨i, hfree, h⟩ := submit_cases q e s <;> rw [h]
    · exact (engineWork_of_undisturbed (noSlot_undisturbed _ _)).after ⟨rfl, rfl, rfl, rfl⟩
    · exact (engineWork_issue (by exact lt_of_freeSlot hfree) rfl).after ⟨rfl, rfl, rfl, rfl⟩
  | cdb | setup => exact engineWork_of_undisturbed ⟨rfl, rfl, rfl, rfl⟩

/-! ## A step that may reset the block -/

/-- The engine works, or the block is reset (rules R64, R470, R471). -/
def WorkOrReset (s t : State) : Prop := EngineWork s t ∨ (t.nvme = Nvme.reset ∧ t.epoch = s.epoch + 1)

theorem workOrReset_of_undisturbed (h : Undisturbed s t) : WorkOrReset s t := .inl (engineWork_of_undisturbed h)

theorem workOrReset_powerOn (s : State) : WorkOrReset s (powerOn s) := .inr ⟨rfl, rfl⟩

theorem WorkOrReset.after (m : WorkOrReset u t) (h : Undisturbed s u) : WorkOrReset s t := by
  obtain hwork | ⟨hnvme, hepoch⟩ := m
  · exact .inl (hwork.after h)
  · exact .inr ⟨hnvme, hepoch.trans (congrArg (· + 1) h.2.2.1)⟩

theorem workOrReset_runCdb {body : State → State} (hbody : ∀ u, WorkOrReset u (body u)) (dir : Dir) (len : BitVec 64)
    (s : State) : WorkOrReset s (runCdb dir len body s) := by
  obtain h | h := runCdb_cases dir len body s <;> rw [h]
  · exact (workOrReset_of_undisturbed (phaseError_undisturbed _)).after ⟨rfl, rfl, rfl, rfl⟩
  · exact (hbody _).after ⟨rfl, rfl, rfl, rfl⟩

theorem workOrReset_registerWrite (a : BitVec 16) (v : Byte) (s : State) :
    WorkOrReset s (if writeResets a v then powerOn s else finish 0 (regWrite a v s)) := by
  split
  case isTrue => exact workOrReset_powerOn s
  case isFalse h =>
    rw [Bool.not_eq_true] at h
    exact (workOrReset_of_undisturbed (finish_undisturbed 0 _)).after (regWrite_undisturbed h s)

theorem workOrReset_exec {i : Instr} (h : exec i s = .next t) : WorkOrReset s t := by
  cases i with
  | identify | createIoCq | createIoSq | getLogPage | nvmeFlush | nvmeWrite | nvmeRead =>
    cases h
    exact .inl (engineWork_submit _ s)
  | vendorE5 value addr =>
    cases h
    split
    · exact workOrReset_of_undisturbed (vendorError_undisturbed s)
    · exact workOrReset_runCdb (workOrReset_registerWrite _ value) _ _ s
  | clearFeature wValue wIndex wLength =>
    cases h
    split
    · exact workOrReset_of_undisturbed (by simp [Undisturbed])
    · split
      · rename_i hclear
        exact (workOrReset_of_undisturbed (clearHalt_undisturbed hclear)).after ⟨rfl, rfl, rfl, rfl⟩
      · exact workOrReset_of_undisturbed (by simp [Undisturbed])
  | getDescriptor type index wIndex wLength =>
    cases h
    split <;> exact workOrReset_of_undisturbed (by simp [Undisturbed])
  | _ =>
    cases h
    exact workOrReset_of_undisturbed (by simp [Undisturbed])

theorem workOrReset_runPacket {r : Refusal} {p : Packet} (h : runPacket r p s = .next t) : WorkOrReset s t := by
  unfold runPacket at h
  split at h
  · exact workOrReset_exec h
  · cases h

/-! ## The event handlers -/

theorem workOrReset_ctlSetupPhase (h : ctlSetupPhase s = .next t) : WorkOrReset s t := by
  unfold ctlSetupPhase at h
  split at h
  · exact workOrReset_runPacket h
  · cases h; exact workOrReset_of_undisturbed ⟨rfl, rfl, rfl, rfl⟩
  · cases h; exact workOrReset_of_undisturbed (raiseFault_undisturbed _ s)

theorem workOrReset_receiveCbw (h : receiveCbw s = .next t) : WorkOrReset s t := by
  unfold receiveCbw at h
  simp only at h
  split at h
  · exact (workOrReset_runPacket h).after ⟨rfl, rfl, rfl, rfl⟩
  · cases h; exact workOrReset_of_undisturbed ⟨rfl, rfl, rfl, rfl⟩

theorem workOrReset_bulkOutHandler (h : bulkOutHandler s = .next t) : WorkOrReset s t := by
  unfold bulkOutHandler at h
  split at h
  · split_ifs at h
    · exact workOrReset_receiveCbw h
    · cases h; exact workOrReset_of_undisturbed ⟨rfl, rfl, rfl, rfl⟩
    · cases h; exact workOrReset_of_undisturbed (raiseFault_undisturbed _ s)
  · cases h; exact workOrReset_of_undisturbed ⟨rfl, rfl, rfl, rfl⟩
  · cases h; exact workOrReset_of_undisturbed (raiseFault_undisturbed _ s)

theorem workOrReset_cswAck (s : State) : WorkOrReset s (cswAck s) := by
  unfold cswAck
  simp only
  cases s.ctx.afterCsw with
  | hardReset | commitReset => exact (workOrReset_powerOn _).after ⟨rfl, rfl, rfl, rfl⟩
  | nothing | haltBoth | reenumerate => exact workOrReset_of_undisturbed (by simp [Undisturbed])

theorem workOrReset_bulkInHandler (s : State) : WorkOrReset s (bulkInHandler s) := by
  unfold bulkInHandler
  split
  · split_ifs
    · exact workOrReset_cswAck s
    · exact workOrReset_of_undisturbed (dataAck_undisturbed s)
    · exact workOrReset_of_undisturbed (raiseFault_undisturbed _ s)
  · split_ifs
    · exact workOrReset_cswAck s
    · exact workOrReset_of_undisturbed ⟨rfl, rfl, rfl, rfl⟩
  · exact workOrReset_of_undisturbed (raiseFault_undisturbed _ s)

theorem workOrReset_epHandler {i : Nat} (h : epHandler i s = .next t) : WorkOrReset s t := by
  unfold epHandler at h
  split_ifs at h
  · cases h; exact workOrReset_bulkInHandler s
  · exact workOrReset_bulkOutHandler h
  · cases h; exact workOrReset_of_undisturbed ⟨rfl, rfl, rfl, rfl⟩

theorem engineWork_tickFault (s : State) : EngineWork s (tickFault s) := by
  unfold tickFault
  split
  · exact engineWork_of_undisturbed ⟨rfl, rfl, rfl, rfl⟩
  · exact engineWork_recover s

theorem engineWork_linkTick (s : State) : EngineWork s (linkTick s) := by
  unfold linkTick
  cases s.link.state with
  | recovery => exact engineWork_recover s
  | fault => exact engineWork_tickFault s
  | off | phyInit | linkTrain | tunnelCfg | ready | suspend | resume =>
    exact engineWork_of_undisturbed (by simp [Undisturbed, leaveOff, tickPhyInit, phyTimeout, tickLinkTrain, tickResume])

/-! ## The loop iteration and the step -/

theorem workOrReset_posStep (h : posStep s = .next t) : WorkOrReset s t := by
  cases hpos : s.seq.pos with
  | ctlSetup =>
    simp only [posStep, hpos] at h
    split at h
    · exact (workOrReset_ctlSetupPhase h).after ⟨rfl, rfl, rfl, rfl⟩
    · cases h; exact workOrReset_of_undisturbed ⟨rfl, rfl, rfl, rfl⟩
  | epServe m =>
    simp only [posStep, hpos] at h
    split at h
    · cases h; exact workOrReset_of_undisturbed ⟨rfl, rfl, rfl, rfl⟩
    · exact (workOrReset_epHandler h).after ⟨rfl, rfl, rfl, rfl⟩
  | timeouts i =>
    simp only [posStep, hpos] at h
    cases h
    exact .inl (engineWork_timeoutTurn i s)
  | poll q fromTick =>
    simp only [posStep, hpos] at h
    cases h
    exact .inl (engineWork_pollTurn q fromTick s)
  | linkTick =>
    simp only [posStep, hpos] at h
    cases h
    exact .inl ((engineWork_linkTick _).after ⟨rfl, rfl, rfl, rfl⟩)
  | _ =>
    simp only [posStep, hpos] at h
    cases h
    exact workOrReset_of_undisturbed (by simp [Undisturbed, unlessFlag])

theorem workOrReset_seqStep (h : seqStep s = .next t) : WorkOrReset s t := by
  obtain ⟨w, -, hw⟩ | ⟨-, r, i, -, -, hi⟩ | ⟨-, -, hp⟩ := seqStep_cases h
  · exact workOrReset_of_undisturbed (waitStep_undisturbed hw)
  · exact workOrReset_exec hi
  · exact workOrReset_posStep hp

/-! ## A transfer offered to bulk-OUT (rules R247, R249, R488, R493) -/

/-- Bulk-OUT takes a CBW: no context is alive, the endpoint is armed for it, not halted, configured, connected and without
a pending event. -/
def TakesCbw (s : State) : Prop :=
  s.ctx.state = .done ∧ s.usb.outArmed = .cbw ∧ s.usb.haltOut = false ∧ s.usb.config ≠ 0 ∧ s.usb.connected = true ∧
    s.ev.epMask.getLsbD 2 = false

/-- A CBW taken: its length and its first 31 bytes are kept, the endpoint is disarmed and its event set. -/
def cbwTaken (b : Bytes) (s : State) : State :=
  { s with
    ctrlLen := b.length, usb := { s.usb with outArmed := .none }, ev := { s.ev with epMask := s.ev.epMask ||| 0x04 }
    mem := s.mem.writeBytes .ctrlbuf 0 (b.take 31) }

theorem offerBulkOut_cases (b : Bytes) (s : State) :
    Undisturbed s (offerBulkOut b s) ∨ (TakesCbw s ∧ offerBulkOut b s = cbwTaken b s) := by
  unfold offerBulkOut
  split
  case isTrue => exact .inl ⟨rfl, rfl, rfl, rfl⟩
  case isFalse hopen =>
    simp only [not_or, Bool.not_eq_false, Bool.not_eq_true] at hopen
    obtain ⟨hconnected, hhalt, hconfig⟩ := hopen
    cases harmed : s.usb.outArmed with
    | none => exact .inl ⟨rfl, rfl, rfl, rfl⟩
    | cbw =>
      simp only
      split
      case isTrue => exact .inl ⟨rfl, rfl, rfl, rfl⟩
      case isFalse hfree =>
        simp only [not_or, Bool.not_eq_true, ne_eq, not_not] at hfree
        obtain ⟨hevent, hdone⟩ := hfree
        exact .inr ⟨⟨hdone, harmed, hhalt, hconfig, hconnected, hevent⟩, rfl⟩
    | data n => left; simp [Undisturbed]
    | discard n => exact .inl ⟨rfl, rfl, rfl, rfl⟩

theorem byte_cbwTaken (b : Bytes) (s : State) (sp : Space) (o : Nat) : (cbwTaken b s).byte sp o =
    if sp = .ctrlbuf ∧ o < 31 ∧ o < b.length then byteAt b o else s.byte sp o := by
  refine (byte_storeBytes s .ctrlbuf sp 0 o (b.take 31)).trans ?_
  simp only [Nat.zero_le, true_and, Nat.zero_add, Nat.sub_zero, List.length_take, Nat.lt_min, eq_comm (a := Space.ctrlbuf)]
  split
  case isTrue h => simp [byteAt, h.2.1]
  case isFalse => rfl

/-- Of the agents' steps only the power-on and a CBW that is taken reach the ids, the heads or `CTRLBUF`. -/
theorem agentStep_effect (i : Input) (s : State) :
    Undisturbed s (agentStep i s) ∨ agentStep i s = powerOn s ∨
      ∃ b, i = .bulkOut b ∧ TakesCbw s ∧ agentStep i s = cbwTaken b s := by
  cases i with
  | powerOn => exact .inr (.inl rfl)
  | bulkOut b =>
    obtain h | ⟨htakes, h⟩ := offerBulkOut_cases b s
    · exact .inl h
    · exact .inr (.inr ⟨b, rfl, htakes, h⟩)
  | setup b => left; simp [Undisturbed, agentStep, takeSetup]
  | ctlData | ctlStatus => left; simp [Undisturbed, agentStep, whenConnected, raiseCtlData, raiseCtlStatus]
  | busReset | suspend | resume => left; simp [Undisturbed, agentStep, whenConnected]
  | bulkIn n => left; simp [Undisturbed, agentStep, takeBulkIn]
  | dma k => exact .inl (dmaStep_undisturbed k s)
  | pcieWrite addr b => exact .inl ⟨rfl, rfl, rfl, pcieWrite_ctrlbuf addr b s.mem⟩
  | regChange a v => exact .inl (hwChange_undisturbed a v s)
  | _ => exact .inl ⟨rfl, rfl, rfl, rfl⟩

/-- A CBW is taken in the step. -/
def StepTakesCbw (s t : State) : Prop :=
  TakesCbw s ∧ ∃ b rest, s.env = .bulkOut b :: rest ∧ t = cbwTaken b { s with env := rest }

/-- What a step does to the ids, the heads and `CTRLBUF`. -/
theorem step_effect (h : step s = .next t) : WorkOrReset s t ∨ StepTakesCbw s t := by
  obtain ⟨u, hu, hseq⟩ | ⟨i, r, henv, rfl⟩ | ⟨-, rfl⟩ := step_cases h
  · obtain rfl | ⟨r, -, rfl⟩ := hu
    · exact .inl (workOrReset_seqStep hseq)
    · exact .inl ((workOrReset_seqStep hseq).after ⟨rfl, rfl, rfl, rfl⟩)
  · obtain hkept | hreset | ⟨b, rfl, htakes, htaken⟩ := agentStep_effect i { s with env := r }
    · exact .inl ((workOrReset_of_undisturbed hkept).after ⟨rfl, rfl, rfl, rfl⟩)
    · rw [hreset]
      exact .inl ((workOrReset_powerOn _).after ⟨rfl, rfl, rfl, rfl⟩)
    · exact .inr ⟨htakes, b, r, henv, htaken⟩
  · exact .inl (workOrReset_of_undisturbed (dmaStep_undisturbed _ s))

/-- Every step is a run of moves of the engine. -/
theorem engineMoves_step (h : step s = .next t) : Relation.ReflTransGen EngineMove s.nvme.view t.nvme.view := by
  obtain (⟨hmoves, -⟩ | ⟨hreset, -⟩) | ⟨-, b, rest, -, rfl⟩ := step_effect h
  · exact hmoves
  · rw [hreset]
    exact .single .reset
  · exact .refl

/-! ## The two invariants of the engine -/

/-- `CidInv` on the view: a pool of `K_MAX` slots, no id held twice. -/
def IdsOk (a : EngineView) : Prop :=
  a.ids.length = Config.kMax ∧ ∀ (i j : Nat) (c : BitVec 16), i ≠ j → a.ids[i]? = some (some c) → a.ids[j]? ≠ some (some c)

/-- The head and the expected phase follow from the entries consumed (rule R385). -/
def CqHead.Ok (h : CqHead) : Prop :=
  h.head.val = h.consumed % Config.queueDepth ∧ h.phase = decide (h.consumed / Config.queueDepth % 2 = 0)

/-- `HeadInv` on the view. -/
def HeadsOk (a : EngineView) : Prop := ∀ q, (a.heads q).Ok

theorem headInv_iff (s : State) : HeadInv s ↔ HeadsOk s.nvme.view := Iff.rfl

/-- Slot `i` of the view holds `c`. -/
theorem view_holds_iff {n : Nvme} {i : Nat} {c : BitVec 16} : n.view.ids[i]? = some (some c) ↔
    i < n.slots.length ∧ (n.slot i).inUse = true ∧ (n.slot i).cid = c := by
  rw [view_ids_getElem?]
  by_cases hi : i < n.slots.length
  · rw [List.getElem?_eq_getElem hi, ← slot_eq_getElem hi]
    simp [Slot.heldId, hi]
  · rw [List.getElem?_eq_none (Nat.le_of_not_lt hi)]
    simp [hi]

theorem cidInv_iff (s : State) : CidInv s ↔ IdsOk s.nvme.view := by
  have hlength : s.nvme.view.ids.length = s.nvme.slots.length := List.length_map _
  unfold CidInv IdsOk
  simp only [ne_eq, view_holds_iff, hlength]
  refine and_congr_right fun hlen => ?_
  rw [hlen]
  constructor
  · rintro h i j c hne ⟨hi, hiu, hic⟩ ⟨hj, hju, hjc⟩
    exact h i j hi hj hne hiu hju (hic.trans hjc.symm)
  · exact fun h i j hi hj hne hiu hju hcid => h i j _ hne ⟨hi, hiu, rfl⟩ ⟨hj, hju, hcid.symm⟩

/-- A slot holds an id after one slot was set: it is the slot that was set to hold it, or it held it before. -/
theorem holds_of_set {ids : List (Option (BitVec 16))} {i j : Nat} {x : Option (BitVec 16)} {c : BitVec 16}
    (h : (ids.set i x)[j]? = some (some c)) : (j = i ∧ x = some c) ∨ (j ≠ i ∧ ids[j]? = some (some c)) := by
  rw [List.getElem?_set] at h
  split_ifs at h with hij
  · exact .inl ⟨hij.symm, Option.some.inj h⟩
  · exact .inr ⟨fun hji => hij hji.symm, h⟩

/-- Only an issue gives a slot an id, and then one that no other slot holds. -/
theorem EngineMove.keeps_ids {a b : EngineView} (m : EngineMove a b) (h : IdsOk a) : IdsOk b := by
  obtain ⟨hlen, hdistinct⟩ := h
  cases m with
  | reset => exact (cidInv_iff State.reset).mp cidInv_reset
  | consumed q => exact ⟨hlen, hdistinct⟩
  | freed i =>
    refine ⟨by simpa using hlen, fun j k c hne hj hk => ?_⟩
    obtain ⟨-, hnone⟩ | ⟨-, hj⟩ := holds_of_set hj
    · cases hnone
    obtain ⟨-, hnone⟩ | ⟨-, hk⟩ := holds_of_set hk
    · cases hnone
    exact hdistinct j k c hne hj hk
  | issued i c hfresh =>
    refine ⟨by simpa using hlen, fun j k d hne hj hk => ?_⟩
    obtain ⟨rfl, hc⟩ | ⟨hji, hj⟩ := holds_of_set hj <;> obtain ⟨hki, hc'⟩ | ⟨hki, hk⟩ := holds_of_set hk
    · exact hne hki.symm
    · exact hfresh hlen k hki (hc ▸ hk)
    · exact hfresh hlen j hji (hc' ▸ hj)
    · exact hdistinct j k d hne hj hk

/-- The number of whole turns of the queue grows by one exactly where the head wraps to 0, and there the phase turns. -/
theorem CqHead.Ok.consume {h : CqHead} (hok : h.Ok) : h.consume.Ok := by
  obtain ⟨hhead, hphase⟩ := hok
  have hnext : (nextIndex h.head).val = (h.consumed + 1) % Config.queueDepth := by
    simp only [nextIndex, hhead, Nat.mod_add_mod]
  refine ⟨hnext, ?_⟩
  simp only [CqHead.consume, hnext, hphase, Nat.succ_div, Nat.dvd_iff_mod_eq_zero]
  split
  · rw [← decide_not, decide_eq_decide]
    omega
  · rfl

theorem EngineMove.keeps_heads {a b : EngineView} (m : EngineMove a b) (h : HeadsOk a) : HeadsOk b := by
  cases m with
  | reset => exact (headInv_iff State.reset).mp headInv_reset
  | freed | issued => exact h
  | consumed q =>
    intro r
    by_cases hr : r = q
    · subst hr
      simpa only [Function.update_self] using (h r).consume
    · simpa only [Function.update_of_ne hr] using h r

/-- What every move keeps, a run of moves keeps. -/
theorem keeps_of_moves {P : EngineView → Prop} (hmove : ∀ a b, EngineMove a b → P a → P b) {a b : EngineView}
    (hmoves : Relation.ReflTransGen EngineMove a b) (h : P a) : P b := by
  induction hmoves with
  | refl => exact h
  | tail _ hm ih => exact hmove _ _ hm ih

end

/-- Settles O9: of the engine's moves only an issue gives a slot an id, and it takes one that no other slot holds. -/
theorem cidsKept : Obligations.CidsKept := by
  intro s t hs hstep
  rw [cidInv_iff] at hs ⊢
  exact keeps_of_moves (fun _ _ m => m.keeps_ids) (engineMoves_step hstep) hs

/-- Settles O10: of the engine's moves only the consumed entry reaches a head, and it moves head, phase and count together. -/
theorem headsKept : Obligations.HeadsKept := fun _ _ hs hstep =>
  keeps_of_moves (P := HeadsOk) (fun _ _ m => m.keeps_heads) (engineMoves_step hstep) hs

/-- Settles O15: a step leaves `CTRLBUF` alone, resets the block, or takes a CBW. -/
theorem cbwTakenOnlyInDone : Obligations.CbwTakenOnlyInDone := by
  intro s t hstep hchanged
  obtain (⟨-, hlen, hepoch, hbuf⟩ | ⟨-, hepoch⟩) | ⟨⟨hdone, harmed, hhalt, hconfig, hconnected, hevent⟩, b, rest, henv, rfl⟩ :=
    step_effect hstep
  · obtain hlen' | ⟨o, ho⟩ := hchanged
    · exact absurd hlen hlen'
    · refine absurd ?_ ho
      rw [State.byte, hepoch]
      exact memByte_congr (congrFun hbuf o)
  · exact .inl hepoch
  · refine .inr ⟨hdone, harmed, hhalt, hconfig, hconnected, hevent, b, rest, henv, rfl, fun o ho hob => ?_, fun sp o hout => ?_⟩
    · rw [byte_cbwTaken, if_pos ⟨rfl, ho, hob⟩]
    · rw [byte_cbwTaken, if_neg hout]
      rfl

end Sys2Proof.Machine
end

section
/-! The submission of an entry (O7, O55, O56), the sense of a final status (O57) and the command time-out (O60): the seven
entries are one call of `submit`, whatever id they were built with. -/

namespace Sys2Proof.Machine

/-! ## Submitting an entry (rules R372, R373) -/

/-- The entry is rewritten with the id of its slot, whatever id it was built with. -/
theorem withCid_sqeBytes (opc : Byte) (cid cid' : BitVec 16) (nsid : BitVec 32) (prp1 : BitVec 64) (c10 c11 c12 : BitVec 32)
    (c : BitVec 16) :
    withCid (sqeBytes opc cid nsid prp1 c10 c11 c12) c = withCid (sqeBytes opc cid' nsid prp1 c10 c11 c12) c := rfl

/-- `e'` is entry `e` built with another id. -/
def SameCommand (e e' : Bytes) : Prop := e.length = 64 ∧ ∀ c, withCid e' c = withCid e c

theorem exec_submits {i : Instr} {q : QueueId} {e : Bytes} (h : encode i = .sqe q e) (s : State) :
    ∃ e', SameCommand e e' ∧ exec i s = .next (submit (.sqe q e') s) := by
  cases i with
  | identify | createIoCq | createIoSq | getLogPage | nvmeFlush | nvmeWrite | nvmeRead =>
    cases h
    exact ⟨_, ⟨rfl, fun c => withCid_sqeBytes _ _ _ _ _ _ _ _ c⟩, rfl⟩
  | _ => cases h

/-- Two entries of one command are issued alike. -/
theorem issue_sameCommand {e e' : Bytes} (h : SameCommand e e') {k : Nat} {s : State} (hk : k < s.nvme.slots.length)
    (x : Slot) : issue k (setSlot k { x with sqe := e' } s) = issue k (setSlot k { x with sqe := e } s) := by
  simp only [issue_setSlot hk, issuedNvme, h.2]

/-- The state with the call of `Submit` made: no entry waits any more. -/
def callMade (s : State) : State := { s with seq := { s.seq with submit := none } }

/-- Slot `k` claimed for entry `e` of queue pair `q` (rule R373). -/
def claimed (k : Nat) (q : QueueId) (e : Bytes) (s : State) : Slot :=
  { s.nvme.slot k with inUse := true, q := q, owner := submitOwner s, retries := 0, sqe := e }

/-- Settles O55: the free slot is claimed and issued. -/
theorem submitIssues : Obligations.SubmitIssues := by
  intro i q e s k hencode hlen hfree
  have hk : k < s.nvme.slots.length := lt_of_freeSlot hfree
  obtain ⟨e', hsame, hexec⟩ := exec_submits hencode s
  obtain ⟨hnone, -⟩ | ⟨k', hfree', hsubmit⟩ := submit_cases q e' s
  · rw [hfree] at hnone; cases hnone
  · obtain rfl : k = k' := Option.some.inj (hfree.symm.trans hfree')
    have hissue : submit (.sqe q e') s =
        issue k (setSlot k (claimed k q e s) (callMade s)) :=
      hsubmit.trans (issue_sameCommand (s := callMade s) hsame hk (claimed k q e s))
    refine ⟨_, hexec, ?_⟩
    rw [hissue]
    exact issue_setSlot_issued (s := callMade s) (x := claimed k q e s) hk hlen hsame.1

/-- Settles O56: the request's owner is told that no slot is free. -/
theorem submitNoSlot : Obligations.SubmitNoSlot := by
  intro i q e s r hencode hfree hrequest
  obtain ⟨e', -, hexec⟩ := exec_submits hencode s
  obtain ⟨-, hsubmit⟩ | ⟨k, hsome, -⟩ := submit_cases q e' s
  · have howner : submitOwner s = r.owner := by rw [submitOwner, hrequest]
    refine ⟨_, hexec, fun hctx => ?_, fun hinit => ?_⟩
    · rw [hsubmit, howner, hctx]
      exact checkCondition_failed senseNotReady _
    · rw [hsubmit, howner, hinit]
      rfl
  · rw [hfree] at hsome; cases hsome

/-! ## The fetch of a built entry (rules R170, R373) -/

/-- Settles O7: a built entry is inside a handler, so the sequencer has the turn and fetches it. -/
theorem stepRunsEntry : Obligations.StepRunsEntry := by
  intro s r i hwait hsubmit hdecode
  have hmid : midHandler s = true := by simp [midHandler, hwait, hsubmit]
  have hseq : seqStep s = runPacket .badSubmission (.sqe r.q r.entry) s := by simp only [seqStep, hwait, hsubmit]
  rw [step, machineStep, if_pos hmid, hseq, runPacket_of_decode hdecode]

/-! ## The sense of a status and the command time-out (rules R388, R392) -/

/-- SCT and SC together are the 11 low bits of a status (rule R388). -/
theorem statusCode_iff (st : BitVec 15) (sc : BitVec 8) :
    (st.extractLsb' 8 3 = 0 ∧ st.extractLsb' 0 8 = sc) ↔ st.toNat % 2048 = sc.toNat := by
  simp only [BitVec.toNat_eq, BitVec.extractLsb'_toNat, Nat.shiftRight_eq_div_pow]
  have := sc.isLt
  simp
  omega

/-- Settles O57: the two table codes are the two values of SCT and SC. -/
theorem senseTable : Obligations.SenseTable := by
  intro st lba
  simp only [senseOfStatus, statusCode_iff]
  rfl

/-- Settles O60: by whether the slot has expired; an expired one is released and its owner told. -/
theorem commandTimeout : Obligations.CommandTimeout := by
  intro i s hi
  have hturn : timeoutTurn i s = if slotExpired i (goto (.timeouts (i + 1)) s) then
      slotTimeout i (goto (.timeouts (i + 1)) s) else goto (.timeouts (i + 1)) s :=
    if_neg (Nat.not_le.mpr hi)
  have hexpired : slotExpired i (goto (.timeouts (i + 1)) s) = true ↔
      (s.nvme.slot i).inUse = true ∧ Config.tNvmeCmd ≤ s.now - (s.nvme.slot i).issuedAt := by
    simp [slotExpired]
  refine ⟨fun hyoung => ?_, fun huse hold => ?_⟩
  · rw [hturn, if_neg]
    rw [hexpired]
    rintro ⟨huse, hold⟩
    obtain hfree | hyoung := hyoung
    · exact absurd huse (by simp [hfree])
    · exact absurd hold (Nat.not_le.mpr hyoung)
  · exact (hturn.trans (if_pos (hexpired.mpr ⟨huse, hold⟩))).trans rfl

end Sys2Proof.Machine
end

section
/-! The DMA engine's step (O52) and the sequencer's turn in a wait for it (O53). -/

namespace Sys2Proof.Machine

section
variable {s u : State} {k : Nat}

/-- A transfer that the engine can run (rules R412, R413). -/
theorem dmaRuns_of_range (hbusy : s.dma.busy = true) (hlen : 1 ≤ s.dma.len) (hfit : s.dma.ptr + s.dma.len ≤ 4096) :
    dmaRuns s.dma = true := by
  have hsize : s.dma.len ≤ Config.stagingSize := (Nat.le_add_left _ _).trans hfit
  have hend : s.dma.ptr + s.dma.len ≤ Config.stagingSize := hfit
  simpa [dmaRuns, hbusy, hsize, hend] using hlen

/-- What one step of an RX transfer moves (rule R412). -/
def rxMoved (k : Nat) (s : State) : Bytes := s.usbOut.take (min k (s.dma.len - s.dma.moved))

/-- The state with the bytes `b` moved, before the engine looks whether all have. -/
def dmaReceived (b : Bytes) (s : State) : State :=
  { s with
    mem := s.mem.writeBytes .staging (s.dma.ptr + s.dma.moved) b
    usbOut := s.usbOut.drop b.length, dma := { s.dma with moved := s.dma.moved + b.length } }

/-- Where no byte can move, none is stored either, so the step of an RX transfer needs no case of its own. -/
theorem dmaStep_rx (hrun : dmaRuns s.dma = true) (hdir : s.dma.dir = .rx) (hopen : s.dma.moved < s.dma.len) :
    dmaStep k s = dmaCheckDone (dmaReceived (rxMoved k s) s) := by
  have hstep : dmaStep k s = if rxMoved k s = [] then s else dmaCheckDone (dmaReceived (rxMoved k s) s) := by
    unfold dmaStep
    rw [if_pos hrun]
    split
    · rfl
    · rename_i htx
      rw [hdir] at htx
      cases htx
  rw [hstep]
  split
  case isFalse => rfl
  case isTrue hnone =>
    rw [hnone]
    exact (if_neg hopen.ne).symm

theorem dmaStep_tx (hrun : dmaRuns s.dma = true) (hdir : s.dma.dir = .tx) :
    dmaStep k s = { s with
      usbIn := s.usbIn ++ [s.bytes .staging s.dma.ptr s.dma.len]
      dma := { s.dma with moved := s.dma.len, busy := false, done := true } } := by
  unfold dmaStep
  rw [if_pos hrun]
  split
  · rename_i hrx
    rw [hdir] at hrx
    cases hrx
  · exact if_pos rfl

theorem byte_dmaReceived (b : Bytes) (s : State) (sp : Space) (o : Nat) : (dmaReceived b s).byte sp o =
    if Space.staging = sp ∧ s.dma.ptr + s.dma.moved ≤ o ∧ o < s.dma.ptr + s.dma.moved + b.length
    then byteAt b (o - (s.dma.ptr + s.dma.moved)) else s.byte sp o :=
  byte_storeBytes s .staging sp _ o b

theorem byte_dmaCheckDone (s : State) (sp : Space) (o : Nat) : (dmaCheckDone s).byte sp o = s.byte sp o := by
  unfold dmaCheckDone
  split <;> rfl

/-- Settles O52: RX by `dmaStep_rx`, byte by byte through the staging buffer; TX by `dmaStep_tx`. -/
theorem dmaMoves : Obligations.DmaMoves := by
  intro s k hbusy hlen hfit hopen
  have hrun : dmaRuns s.dma = true := dmaRuns_of_range hbusy hlen hfit
  refine ⟨fun hdir => ?_, dmaStep_tx hrun⟩
  have hmoved : (rxMoved k s).length = min (min k (s.dma.len - s.dma.moved)) s.usbOut.length := List.length_take
  have hstep := dmaStep_rx (k := k) hrun hdir hopen
  dsimp only
  rw [hstep, ← hmoved]
  refine ⟨?_, fun i hi => ?_, fun sp o hout => ?_⟩
  · unfold dmaCheckDone
    by_cases hdone : s.dma.moved + (rxMoved k s).length = s.dma.len
    · rw [if_pos hdone, if_pos (by exact hdone)]
      simp [dmaReceived, hdone]
    · rw [if_neg hdone, if_neg (by exact hdone)]
      rfl
  · rw [byte_dmaCheckDone, byte_dmaReceived, if_pos ⟨rfl, by omega, by omega⟩, Nat.add_sub_cancel_left]
    have : i < min k (s.dma.len - s.dma.moved) := by omega
    simp [rxMoved, byteAt, this]
  · rw [byte_dmaCheckDone, byte_dmaReceived, if_neg]
    rintro ⟨hsp, hrange⟩
    exact hout ⟨hsp.symm, hrange⟩

/-! ## A turn in a wait (rules R181, R281 to R283, R414, R415) -/

variable {w : Wait}

/-- A turn given to the sequencer in a wait goes to the wait; where it is blocked, only with an input left (rule R94). -/
theorem step_of_wait (hturn : turn s u) (hwait : s.seq.wait = some w) (h : blocked s = false ∨ s.env ≠ []) :
    step s = waitStep w u := by
  have hmid : midHandler s = false := by simp [midHandler, hwait]
  have hseq : seqStep u = waitStep w u := by
    rw [hturn.eq_env]
    simp only [seqStep, hwait]
  obtain ⟨henv, rfl⟩ | ⟨r, henv, rfl⟩ := hturn
  · obtain hblocked | hinput := h
    · simp [step, machineStep, hmid, henv, hblocked, hseq]
    · exact absurd henv hinput
  · simp [step, machineStep, hmid, henv, hseq]

theorem step_of_blocked (hblocked : blocked s = true) (hwait : s.seq.wait = some w) (henv : s.env = []) :
    step s = .next (dmaStep Config.stagingSize s) := by
  have hmid : midHandler s = false := by simp [midHandler, hwait]
  simp [step, machineStep, hmid, henv, hblocked]

theorem blocked_iff (hwait : s.seq.wait = some w) :
    blocked s = true ↔ s.dma.done = false ∧ s.now - w.start < w.bound := by
  simp [blocked, hwait, waitExpired]

/-- The state with the wait over. -/
def waitOver (s : State) : State := { s with seq := { s.seq with wait := none } }

theorem waitStep_of_done (h : s.dma.done = true) : waitStep w s = resumeAt w.resume (waitOver s) := if_pos h

theorem waitStep_of_expired (h : s.dma.done = false) (ht : w.bound ≤ s.now - w.start) :
    waitStep w s = .next (raiseFault .dmaTimeout (waitOver s)) := by
  simp [waitStep, waitExpired, h, ht, waitOver]

theorem waitStep_of_blocked (h : s.dma.done = false) (ht : s.now - w.start < w.bound) : waitStep w s = .next s := by
  simp [waitStep, waitExpired, h, ht]

theorem bulkOutHandler_of_awaitingData (hlink : s.link.state = .ready ∨ s.link.state = .resume) (hcfg : s.usb.config ≠ 0)
    (hstate : s.ctx.state = .awaitingData) : bulkOutHandler s = .next (receiveChunk s) := by
  have hexp : expectBulkOut s = true := by simpa [expectBulkOut, hstate] using hcfg
  have hne : s.ctx.state ≠ .done := by rw [hstate]; decide
  simp only [bulkOutHandler, expectUsb_of_active hlink, hexp, if_true, if_neg hne]

/-- The chunk of a WRITE(10) that was received is written by the controller (rules R283, R317). -/
theorem chunkExec_of_write10 {lba : BitVec 32} {blocks : BitVec 16} (h : decodeCdb s.ctx.cdb = .write10 lba blocks)
    (n : Nat) : chunkExec n s = .next (writeChunk n s) := by
  unfold chunkExec
  rw [h]

theorem writeChunk_submits (n : Nat) (hstate : s.ctx.state = .executing) : Submits s (writeChunk n s) s.ctx .io
    (.nvmeWrite 0 Config.nsid Config.stagingPcieAddr s.ctx.lba (BitVec.ofNat 16 (n / s.nvme.blockSize.toNat) - 1)) := by
  have hctx : { s.ctx with state := .executing } = s.ctx := by rw [← hstate]
  refine ⟨_, rfl, ?_⟩
  rw [hctx]
  rfl

/-- The state with a chunk of `n` bytes from the host counted and bulk-OUT disarmed (rule R283). -/
def chunkReceived (n : Nat) (s : State) : State :=
  armOut .none { s with ctx := { s.ctx with actual := s.ctx.actual + BitVec.ofNat 32 n, state := .executing } }

theorem resumeAt_rx (n : Nat) (s : State) : resumeAt (.rx n) s = chunkExec n (chunkReceived n s) := rfl

/-- A chunk to the host is counted, noted in `in_busy`, and moves a READ(10) on (rules R281, R282). -/
theorem resumeAt_tx (n : Nat) : resumeAt (.tx n) s = .next { s with
    ctx := if byteAt s.ctx.cdb 0 = 0x28 then
        { s.ctx with actual := s.ctx.actual + BitVec.ofNat 32 n, chunkIdx := s.ctx.chunkIdx + 1
                     lba := s.ctx.lba + BitVec.ofNat 64 (n / s.nvme.blockSize.toNat)
                     blocksLeft := s.ctx.blocksLeft - BitVec.ofNat 32 (n / s.nvme.blockSize.toNat) }
      else { s.ctx with actual := s.ctx.actual + BitVec.ofNat 32 n }
    usb := { s.usb with inBusy := .data n } } := by
  unfold resumeAt
  by_cases hread : byteAt s.ctx.cdb 0 = 0x28
  · simp only [hread, if_true]
    rfl
  · simp only [hread, if_false]

end

/-- Settles O53: a turn in the wait is `waitStep`, which goes on where `DMA_DONE` is set, else times out or stays blocked. -/
theorem dmaWait_resumes_or_times_out : Obligations.DmaWait := by
  refine ⟨fun s hlink hcfg hstate => bulkOutHandler_of_awaitingData hlink hcfg hstate, fun s u w n hturn hwait => ?_⟩
  have hopen : ¬(s.dma.done = false ∧ s.now - w.start < w.bound) → blocked s = false := fun h =>
    Bool.eq_false_iff.mpr (mt (blocked_iff hwait).mp h)
  have hend : s.dma.done = true → step s = resumeAt w.resume (waitOver u) := fun hdone => by
    rw [step_of_wait hturn hwait (.inl (hopen (by simp [hdone])))]
    exact waitStep_of_done (by rw [hturn.eq_env]; exact hdone)
  obtain ⟨env, rfl⟩ : ∃ env, u = { s with env := env } := ⟨_, hturn.eq_env⟩
  refine ⟨fun hdone htx => ?_, fun hdone hrx => ?_, fun hdone hrx lba blocks hcdb => ?_, fun hdone htime => ?_,
    fun hdone htime => ?_⟩
  · rw [hend hdone, htx, resumeAt_tx]
    rfl
  · rw [hend hdone, hrx]
    rfl
  · rw [hend hdone, hrx, resumeAt_rx]
    exact ⟨_, chunkExec_of_write10 (s := chunkReceived n (waitOver { s with env := env })) hcdb n, writeChunk_submits n rfl⟩
  · rw [step_of_wait hturn hwait (.inl (hopen (by omega)))]
    exact waitStep_of_expired hdone htime
  · by_cases henv : s.env = []
    · rw [step_of_blocked ((blocked_iff hwait).mpr ⟨hdone, htime⟩) hwait henv, if_pos henv]
      rfl
    · rw [step_of_wait hturn hwait (.inr henv), if_neg henv]
      exact waitStep_of_blocked hdone htime

end Sys2Proof.Machine
end
